-- ==== Sys2Proof/Word.lean ====
section
/-! DEFINITION. The words of the block (00_scope.md rule R10): 32-bit registers and operands, 8-bit wire bytes,
and the 16-bit unsigned words of the wire. -/

namespace Sys2Proof

/-- A register, an operand or a host-record word (rule R10). -/
abbrev Word := BitVec 32

/-- One byte of the buffer space or of the wire (rule R10). -/
abbrev Byte := BitVec 8

/-- A 16-bit word of the wire: a word-count, a sample, a version number (rule R10). -/
abbrev Half := BitVec 16

end Sys2Proof
end

