-- ==== Sys2Proof/Syntax.lean ====
section
/-! DEFINITION. The commands of the block: one constructor for each row of spec/opcode_table.json, with its operands at
the widths of 30_encoding.md rules R101 to R103, and the five latched words a command is decoded from (rule R100). -/

namespace Sys2Proof

/-- A stable device identifier: six bytes, compared byte by byte and never read as a number (rule R102). -/
structure Uuid where
  b0 : Byte
  b1 : Byte
  b2 : Byte
  b3 : Byte
  b4 : Byte
  b5 : Byte
  deriving DecidableEq, Repr, Inhabited

/-- The latch of a port: the CMD word and the operands taken with it (10_state.md rules R31 and R33). -/
structure Latch where
  lop : Word
  a0 : Word
  a1 : Word
  a2 : Word
  a3 : Word
  deriving DecidableEq, Repr, Inhabited

/-- A command with its operands. Bits an operand form ignores are no part of it (rule R101). -/
inductive Instr where
  /-- NOP, opcode 0x00 (44_control.md rule R310). -/
  | nop
  /-- SLIP.ENC, opcode 0x01: source offset and length, destination offset and capacity (40_slip.md rule R146). -/
  | slipEnc (src len dst cap : Word)
  /-- SLIP.DEC, opcode 0x02: body offset and length (rule R143). -/
  | slipDec (off len : Word)
  /-- SLIP.RX, opcode 0x03: received byte and channel (rule R151). -/
  | slipRx (byte : Byte) (ch : Word)
  /-- SLIP.RXCLR, opcode 0x04: channel (rule R157). -/
  | slipRxclr (ch : Word)
  /-- TYPE.CLASS, opcode 0x10: type byte (41_packet.md rule R190). -/
  | typeClass (b : Byte)
  /-- PKT.SER, opcode 0x11: host-record offset, output offset and capacity (rule R200). -/
  | pktSer (record dst cap : Word)
  /-- PKT.PARSE, opcode 0x12: input offset and length, host-record offset and capacity (rule R205). -/
  | pktParse (src len record cap : Word)
  /-- MOT.PACK, opcode 0x13: host-record offset and output offset (rule R212). -/
  | motPack (record dst : Word)
  /-- MOT.UNPACK, opcode 0x14: input offset and host-record offset (rule R213). -/
  | motUnpack (src record : Word)
  /-- MRK.PACK, opcode 0x15: the two coordinates (rule R216). -/
  | mrkPack (x y : BitVec 12)
  /-- MRK.UNPACK, opcode 0x16: the three packed bytes, byte 0 lowest (rule R217). -/
  | mrkUnpack (v : BitVec 24)
  /-- CONV.A2W, opcode 0x20: binary32 encoding of an acceleration (42_convert.md rule R250). -/
  | convA2w (x : Word)
  /-- CONV.W2A, opcode 0x21: accelerometer wire sample (rule R251). -/
  | convW2a (r : Half)
  /-- CONV.G2W, opcode 0x22: binary32 encoding of an angular rate (rule R252). -/
  | convG2w (x : Word)
  /-- CONV.W2G, opcode 0x23: gyroscope wire sample (rule R253). -/
  | convW2g (r : Half)
  /-- HUB.ATTACH, opcode 0x30 (43_hub.md rule R275). -/
  | hubAttach (u : Uuid)
  /-- HUB.DETACH, opcode 0x31 (rule R280). -/
  | hubDetach (u : Uuid)
  /-- HUB.ROUTEOUT, opcode 0x32: device, packet offset and length (rule R283). -/
  | hubRouteout (u : Uuid) (off len : Word)
  /-- HUB.ROUTEIN, opcode 0x33: device, packet offset and length (rule R285). -/
  | hubRoutein (u : Uuid) (off len : Word)
  /-- HUB.REQUEST, opcode 0x34 (rule R287). -/
  | hubRequest
  /-- HUB.SUB, opcode 0x35 (rule R289). -/
  | hubSub
  /-- HUB.UNSUB, opcode 0x36 (rule R291). -/
  | hubUnsub
  /-- CTR.CLR, opcode 0x3F (44_control.md rule R311). -/
  | ctrClr
  deriving DecidableEq, Repr

end Sys2Proof
end

