-- ==== Sys2Proof/Machine/Bytes.lean ====
section
/-! DEFINITION. Byte order and bit fields: le16, le32, u16le, u32le and the host-record words (00_scope.md rule R12,
20_memory.md rule R84, 41_packet.md rule R183). -/

namespace Sys2Proof.Machine

/-- `le16(v)`: least significant byte first (rule R12). -/
def le16 (v : Half) : List Byte := [v.extractLsb' 0 8, v.extractLsb' 8 8]

/-- `le32(v)`: least significant byte first (rule R12). -/
def le32 (v : Word) : List Byte :=
  [v.extractLsb' 0 8, v.extractLsb' 8 8, v.extractLsb' 16 8, v.extractLsb' 24 8]

/-- `u16le(b0, b1)` (rule R12). -/
def u16le (b0 b1 : Byte) : Half := b1 ++ b0

/-- `u32le(b0, b1, b2, b3)`, the inverse of `le32` (rule R12). -/
def u32le (b0 b1 b2 b3 : Byte) : Word := b3 ++ b2 ++ b1 ++ b0

/-- The byte at index `i` of a sequence. Every caller's sequence is long enough; past the end it is 0. -/
def byteAt (bs : List Byte) (i : Nat) : Byte := bs.getD i 0

/-- The 16-bit little-endian word at index `i`. -/
def halfAt (bs : List Byte) (i : Nat) : Half := u16le (byteAt bs i) (byteAt bs (i + 1))

/-- The 32-bit little-endian word at index `i`: a word of a host record (rule R183). -/
def wordAt (bs : List Byte) (i : Nat) : Word :=
  u32le (byteAt bs i) (byteAt bs (i + 1)) (byteAt bs (i + 2)) (byteAt bs (i + 3))

/-- A natural number as a 32-bit result. Every caller's number is below 2^32. -/
def wordOf (n : Nat) : Word := BitVec.ofNat 32 n

end Sys2Proof.Machine
end

