-- ==== Sys2Proof/Config.lean ====
section
/-! DEFINITION. What is fixed when the block is built: the parameters of 00_scope.md rule R9, and the two things the
spec leaves wholly open, which have no body here. The parameters that are plain data are a structure that State carries
(log entry 2), so a statement about every state is a statement about every configuration. -/

namespace Sys2Proof

/-- The layout kinds of sendable packet types (41_packet.md rule R184). -/
inductive Kind where
  /-- ObjectReport (rule R191). -/
  | obj
  /-- CombinedMarkersReport (rule R192). -/
  | mrk
  /-- AccelReport (rule R193). -/
  | acc
  /-- Version (rule R194). -/
  | ver
  /-- FIX(n): opaque, of fixed length n (rule R196). -/
  | fix (n : Nat)
  /-- VAR: opaque, its length from the word-count (rule R196). -/
  | var
  /-- Vendor (rule R195). -/
  | vend
  deriving DecidableEq, Repr, Inhabited

/-- What OPAQUE_VALIDATE may answer (rule R197). -/
inductive Verdict where
  /-- `none`: nothing is wrong with the payload. -/
  | accepted
  | unrecognizedPort
  | unrecognizedStreamUpdateAction (b : Byte)
  | invalidBitPattern
  deriving DecidableEq, Repr, Inhabited

/-- The build-time parameters that are plain data (rule R9; 70_reset_and_hazards.md rule R362). -/
structure Config where
  /-- PORTS. -/
  ports : Nat
  /-- BUF_BYTES. -/
  bufBytes : Nat
  /-- RX_CHANNELS. -/
  rxChannels : Nat
  /-- ROSTER_CAP. -/
  rosterCap : Nat
  /-- UPQ_DEPTH. -/
  upqDepth : Nat
  /-- DOWNQ_DEPTH. -/
  downqDepth : Nat
  /-- VENDOR_LO. -/
  vendorLo : Byte
  /-- CATALOG: the kinds of the type bytes 0x00 to 0x13, in order (41_packet.md rule R186). -/
  catalog : List Kind
  deriving DecidableEq, Repr, Inhabited

/-- OPAQUE_VALIDATE (rule R197): applied to the type byte and the payload, never interpreted. FREE VALUE: it has no
body, so what is proved holds for every verdict (log entry 4). -/
opaque Config.opaqueValidate : Byte → List Byte → Verdict

/-- PROTOCOL_SEMVER (rule R9): three 16-bit numbers the block never reads (41_packet.md rule R194; log entry 5). -/
opaque Config.protocolSemver : Half × Half × Half

/-- EXCFG, the labelled example catalog of 95_test_vectors.md section 0. DESIGN CHOICE, unsafe: CATALOG is OPEN and this
is not the device's numbering (log entry 3). -/
def Config.exampleCatalog : List Kind :=
  [.var, .obj, .mrk, .acc, .ver, .var, .fix 2] ++ List.replicate 13 .var

/-- The configuration `State.reset` is built with: the defaults of rule R9. DESIGN CHOICE, unsafe, for the two parameters
that have none, ROSTER_CAP and CATALOG (log entry 3). -/
def Config.build : Config where
  ports := 2
  bufBytes := 65536
  rxChannels := 1
  rosterCap := 3
  upqDepth := 16
  downqDepth := 16
  vendorLo := 0x80
  catalog := Config.exampleCatalog

end Sys2Proof
end

