-- ==== Sys2Proof/Machine/State.lean ====
section
/-! DEFINITION. The state of the block as plain data (10_state.md), the agents' steps, the faults and refusals, and reset. -/

namespace Sys2Proof.Machine

/-- The status codes of 60_exceptions.md rule R320. -/
inductive StatusCode where
  | ok
  | illegalCommand
  | badAddress
  | overlap
  | badChannel
  | doubleEsc
  | invalidEsc
  | trailingEsc
  | notEnoughCapacity
  | rxOverflow
  | unexpectedEof
  | unrecognizedPacketId
  | unrecognizedPort
  | unrecognizedStreamUpdateAction
  | invalidBitPattern
  | notSendable
  | invalidField
  | rosterFull
  deriving DecidableEq, Repr, Inhabited

/-- The register bank of one command port and its hidden latch (10_state.md rules R31 to R37). -/
structure Port where
  arg0 : Word
  arg1 : Word
  arg2 : Word
  arg3 : Word
  /-- STATUS.CODE. -/
  code : StatusCode
  /-- STATUS.PENDING. -/
  pending : Bool
  /-- STATUS.OVERRUN. -/
  overrun : Bool
  res0 : Word
  res1 : Word
  /-- LOP and A0 to A3. -/
  latch : Latch
  deriving DecidableEq, Repr, Inhabited

/-- One SLIP deframer channel (10_state.md rule R45). -/
structure RxChannel where
  /-- RXBASE. -/
  base : Word
  /-- RXCAP. -/
  cap : Word
  /-- RXLEN. -/
  len : Word
  /-- RXSTAT bit 0. -/
  dropping : Bool
  deriving DecidableEq, Repr, Inhabited

/-- The six event counters (10_state.md rule R47). -/
structure Counters where
  frameErr : Word
  parseErr : Word
  routeDrop : Word
  rosterReject : Word
  rxOverflow : Word
  framesOk : Word
  deriving DecidableEq, Repr, Inhabited

/-- An entry of UpQ (10_state.md rule R44, 43_hub.md rule R271). -/
inductive UpEntry where
  | devicePacket (u : Uuid) (bytes : List Byte)
  | devicesSnapshot (uuids : List Uuid)
  deriving DecidableEq, Repr

/-- An entry of DownQ, `Outbound(uuid, bytes)` (10_state.md rule R44). -/
structure DownEntry where
  uuid : Uuid
  bytes : List Byte
  deriving DecidableEq, Repr

/-- The buffer space: the Known cells, as (offset, byte) pairs with strictly rising offsets. A cell that is not listed is
Unknown (20_memory.md rules R70 and R72; log entry 7). -/
abbrev Memory := List Host.Cell

/-- An access by a host agent: to the register space (10_state.md rule R53) or to BUF (20_memory.md rule R71), its width in
bytes. -/
inductive Access where
  | regRead (off width : Nat)
  | regWrite (off width : Nat) (v : Word)
  | bufRead (off width : Nat)
  | bufWrite (off width : Nat) (v : Word)
  deriving DecidableEq, Repr

/-- One host-side step of a program, which the assembler's statements expand to (30_encoding.md rules R110 and R111). -/
inductive ProgramStep where
  /-- The host of port `p` makes one access. -/
  | access (p : Nat) (a : Access)
  /-- `wait`: the host of port `p` reads STATUS until PENDING reads 0. -/
  | wait (p : Nat)
  /-- `uppop`: one step of the Upstream agent. -/
  | uppop
  /-- `downpop`: one step of the Downstream agent. -/
  | downpop
  deriving DecidableEq, Repr

/-- One step of one agent (10_state.md rule R30), and the reset event (70_reset_and_hazards.md rule R360). -/
inductive AgentStep where
  /-- The Engine picks port `p`. -/
  | engine (p : Nat)
  /-- The software driving port `p` makes one access. -/
  | host (p : Nat) (a : Access)
  /-- The software takes the next step of its program (log entry 25). -/
  | program
  /-- The upstream session takes the head of UpQ. -/
  | upstream
  /-- The devices' transports take the head of DownQ. -/
  | downstream
  /-- The platform asserts reset. -/
  | reset
  deriving DecidableEq, Repr

/-- The whole machine: the block's configuration and state, and the model's own record of its environment. -/
structure State where
  /-- The configuration; no step changes it (70_reset_and_hazards.md rule R362; log entry 2). -/
  cfg : Config
  /-- The port banks 0 to PORTS-1. -/
  ports : List Port
  /-- ROSTER, in attach order (10_state.md rule R41). -/
  roster : List Uuid
  /-- SUBSCRIBED (rule R42). -/
  subscribed : Bool
  /-- UpQ, head first (rule R44). -/
  upQ : List UpEntry
  /-- DownQ, head first (rule R44). -/
  downQ : List DownEntry
  /-- The deframer channels 0 to RX_CHANNELS-1 (rule R45). -/
  rx : List RxChannel
  counters : Counters
  /-- BUF (rule R48). -/
  buf : Memory
  /-- The model's own: which agent steps come next, first one first (log entry 1). -/
  agenda : List AgentStep
  /-- The model's own: what is left of the software's program, next step first (log entry 25). -/
  program : List ProgramStep
  /-- The model's own: the port the Engine serves (log entry 12). -/
  served : Nat
  /-- The model's own: what the upstream session has been handed, oldest first (log entry 11). -/
  upOut : List UpEntry
  /-- The model's own: what the devices' transports have been handed, oldest first (log entry 11). -/
  downOut : List DownEntry
  /-- The model's own: the value of each host read with the port that made it, oldest first (log entry 11). -/
  hostReads : List (Nat × Word)
  deriving DecidableEq, Repr

/-- The one model fault (60_exceptions.md rule R325). -/
inductive Fault where
  /-- A host read or a command's MemRead meets an Unknown cell at this offset (20_memory.md rule R72). Safe: hardware
  returns some byte and goes on. -/
  | unknownRead (offset : Nat)
  deriving DecidableEq, Repr

/-- What the model has no step for. -/
inductive Refusal where
  /-- Raised by `exec` for an instruction that has no meaning yet; no arm raises it. Safe. -/
  | notModelled (mnemonic : String)
  /-- A host register access that is not 32 bits wide, not 4-byte aligned, or outside the 16 KiB register space
  (60_exceptions.md rule R327). Safe: the hardware's effect is not specified. -/
  | registerAccess (off width : Nat)
  /-- A host BUF access that runs past BUF_BYTES (rule R327), or whose width is not 1, 2 or 4 (20_memory.md rule R71).
  Safe. -/
  | bufferAccess (off width : Nat)
  /-- An access by a host of a port the block does not have (10_state.md rule R30). Safe: there is no such agent. -/
  | noSuchHost (p : Nat)
  deriving DecidableEq, Repr

/-- A port bank after reset (10_state.md rule R52). The latch is unspecified there; 0 is a DESIGN CHOICE, unsafe
(log entry 6). -/
def Port.reset : Port := ⟨0, 0, 0, 0, .ok, false, false, 0, 0, ⟨0, 0, 0, 0, 0⟩⟩

/-- A deframer channel after reset (rules R45 and R52). -/
def RxChannel.reset : RxChannel := ⟨0, 0, 0, false⟩

/-- The counters after reset and after CTR.CLR (rules R47 and R52). -/
def Counters.reset : Counters := ⟨0, 0, 0, 0, 0, 0⟩

/-- The block of configuration `c` right after reset (10_state.md rule R52), in an environment that has seen nothing and
plans nothing (log entries 1, 11 and 25). -/
def State.resetOf (c : Config) : State where
  cfg := c
  ports := List.replicate c.ports Port.reset
  roster := []
  subscribed := false
  upQ := []
  downQ := []
  rx := List.replicate c.rxChannels RxChannel.reset
  counters := Counters.reset
  buf := []
  agenda := []
  program := []
  served := 0
  upOut := []
  downOut := []
  hostReads := []

/-- The machine right after reset, with the configuration of log entry 3. -/
def State.reset : State := State.resetOf Config.build

/-- What a command's meaning answers. -/
abbrev Result := Host.Outcome State Fault Refusal

end Sys2Proof.Machine
end

