-- ==== Sys2Proof/Machine/Ops.lean ====
section
/-! DEFINITION. The named operations the meanings are made of: the buffer space, the port served, how a command ends
(00_scope.md rules R14 and R15), the deframer channels, the queues and the counters. -/

namespace Sys2Proof.Machine

/-! The buffer space (20_memory.md rules R70 to R75). -/

/-- The byte of the cell at `a`, if it is Known. -/
def Memory.lookup (m : Memory) (a : Nat) : Option Byte :=
  match m with
  | [] => none
  | (k, b) :: rest => if k = a then some b else Memory.lookup rest a

/-- `MemRead(a, n)`: the bytes of the cells from `a` up, or the offset of the first one that is Unknown (rules R14 and
R72; log entry 7). -/
def Memory.read (m : Memory) (a : Nat) : Nat → Except Nat (List Byte)
  | 0 => .ok []
  | n + 1 =>
    match m.lookup a with
    | none => .error a
    | some b =>
      match Memory.read m (a + 1) n with
      | .error off => .error off
      | .ok bs => .ok (b :: bs)

/-- The cells that hold the bytes `bs` from offset `a` up. -/
def cellsFrom (a : Nat) : List Byte → Memory
  | [] => []
  | b :: bs => (a, b) :: cellsFrom (a + 1) bs

/-- `MemWrite(a, len(bs), bs)`: those cells become Known, the others are left alone (rule R14). -/
def Memory.write (m : Memory) (a : Nat) (bs : List Byte) : Memory :=
  m.filter (fun c => c.1 < a) ++ cellsFrom a bs ++ m.filter (fun c => a + bs.length ≤ c.1)

/-- `MemUnknown(a, n)`: those cells become Unknown, the others are left alone (rule R14). -/
def Memory.forget (m : Memory) (a n : Nat) : Memory :=
  m.filter (fun c => c.1 < a || a + n ≤ c.1)

/-- The canonical form: strictly rising offsets. (A listed cell never equals an unlisted one, which is Unknown.) -/
def Memory.wf (m : Memory) : Bool := decide (m.Pairwise (fun x y => x.1 < y.1))

/-- The buffer with `bs` written from `a` up. -/
def State.store (s : State) (a : Nat) (bs : List Byte) : State := { s with buf := s.buf.write a bs }

/-- The state with the `n` cells from `a` up Unknown. -/
def State.makeUnknown (s : State) (a n : Nat) : State := { s with buf := s.buf.forget a n }

/-- A command's MemRead: go on with the bytes, or the model fault UnknownRead (20_memory.md rule R72). -/
def State.reading (s : State) (a n : Nat) (k : List Byte → Result) : Result :=
  match s.buf.read a n with
  | .ok bs => k bs
  | .error off => .fault (.unknownRead off)

/-! How a command ends (10_state.md rules R36 and R37; 60_exceptions.md rules R320 and R321). -/

/-- Change the bank of port `p`, and no other one (10_state.md rule R31). -/
def State.updatePort (s : State) (p : Nat) (f : Port → Port) : State :=
  { s with ports := s.ports.modify p f }

/-- The completion of a command in its port's bank: CODE, RES0 and RES1 written, PENDING cleared (rule R36). -/
def completePort (code : StatusCode) (r0 r1 : Word) (pt : Port) : Port :=
  { pt with code := code, res0 := r0, res1 := r1, pending := false }

/-- The completion of the command of the port served (rule R36). -/
def State.complete (s : State) (code : StatusCode) (r0 r1 : Word) : State :=
  s.updatePort s.served (completePort code r0 r1)

/-- `finish(r0, r1)`: the command ends with status OK (00_scope.md rule R15). -/
def State.finish (s : State) (r0 r1 : Word) : Result := .next (s.complete .ok r0 r1)

/-- `raise code(r0)`: the command ends with an error code, and RES1 is 0 (rules R15 and R320). This is the block's whole
way of taking an error: no program counter, mode or stack is saved or changed, because there is none, and there is
nothing to return from (60_exceptions.md rules R332 and R334). -/
def State.raise (s : State) (code : StatusCode) (r0 : Word) : Result := .next (s.complete code r0 0)

/-- `hold`: the command makes no change and stays pending (10_state.md rule R36, 43_hub.md rule R272). -/
def State.hold (s : State) : Result := .next s

/-! Counters, queues and channels. -/

/-- Change the counters (10_state.md rule R47). -/
def State.count (s : State) (f : Counters → Counters) : State := { s with counters := f s.counters }

/-- `count CNT_FRAME_ERR`, modulo 2^32 (rule R47). -/
def countFrameErr (c : Counters) : Counters := { c with frameErr := c.frameErr + 1 }

/-- `count CNT_PARSE_ERR` (rule R47). -/
def countParseErr (c : Counters) : Counters := { c with parseErr := c.parseErr + 1 }

/-- `count CNT_ROUTE_DROP` (rule R47). -/
def countRouteDrop (c : Counters) : Counters := { c with routeDrop := c.routeDrop + 1 }

/-- `count CNT_ROSTER_REJECT` (rule R47). -/
def countRosterReject (c : Counters) : Counters := { c with rosterReject := c.rosterReject + 1 }

/-- `count CNT_RX_OVERFLOW` (rule R47). -/
def countRxOverflow (c : Counters) : Counters := { c with rxOverflow := c.rxOverflow + 1 }

/-- `count CNT_FRAMES_OK` (rule R47). -/
def countFramesOk (c : Counters) : Counters := { c with framesOk := c.framesOk + 1 }

/-- `push UpQ e` (10_state.md rule R44). -/
def State.pushUp (s : State) (e : UpEntry) : State := { s with upQ := s.upQ ++ [e] }

/-- `push DownQ e` (rule R44). -/
def State.pushDown (s : State) (e : DownEntry) : State := { s with downQ := s.downQ ++ [e] }

/-- UpQ holds UPQ_DEPTH entries. -/
def State.upFull (s : State) : Bool := s.upQ.length == s.cfg.upqDepth

/-- DownQ holds DOWNQ_DEPTH entries. -/
def State.downFull (s : State) : Bool := s.downQ.length == s.cfg.downqDepth

/-- `snapshot()`: DevicesSnapshot of the roster as it is at the push (43_hub.md rule R273). -/
def State.pushSnapshot (s : State) : State := s.pushUp (.devicesSnapshot s.roster)

/-- Change deframer channel `ch`, and no other one. -/
def State.updateRx (s : State) (ch : Nat) (f : RxChannel → RxChannel) : State :=
  { s with rx := s.rx.modify ch f }

/-- RXLEN and DROPPING cleared (10_state.md rule R46, 40_slip.md rule R157). -/
def clearRx (c : RxChannel) : RxChannel := { c with len := 0, dropping := false }

end Sys2Proof.Machine
end

