-- ==== Sys2Proof/Machine/Control.lean ====
section
/-! DEFINITION. The control commands and the illegal command (44_control.md). -/

namespace Sys2Proof.Machine

/-- NOP (rule R310). -/
def execNop (s : State) : Result := s.finish 0 0

/-- CTR.CLR: all six event counters become 0 (rule R311). -/
def execCtrClr (s : State) : Result := (s.count fun _ => ⟨0, 0, 0, 0, 0, 0⟩).finish 0 0

/-- A latched word that is no command: IllegalCommand with the whole CMD word (rule R312). -/
def illegalCommand (lop : Word) (s : State) : Result := s.raise .illegalCommand lop

end Sys2Proof.Machine
end

