-- ==== Sys2Proof/Machine/Flags.lean ====
section
/-! DEFINITION. The flags of the block (10_state.md rule R50) and the registers made of flags: STATUS, RXSTAT, HUBSTAT. -/

namespace Sys2Proof.Machine

/-- The numbers of the status codes (60_exceptions.md rule R320). -/
def statusNumber : StatusCode → Byte
  | .ok => 0x00
  | .illegalCommand => 0x01
  | .badAddress => 0x02
  | .overlap => 0x03
  | .badChannel => 0x04
  | .doubleEsc => 0x10
  | .invalidEsc => 0x11
  | .trailingEsc => 0x12
  | .notEnoughCapacity => 0x13
  | .rxOverflow => 0x14
  | .unexpectedEof => 0x20
  | .unrecognizedPacketId => 0x21
  | .unrecognizedPort => 0x22
  | .unrecognizedStreamUpdateAction => 0x23
  | .invalidBitPattern => 0x24
  | .notSendable => 0x25
  | .invalidField => 0x26
  | .rosterFull => 0x30

/-- A flag as the bit a register shows. -/
def flagBit (b : Bool) : BitVec 1 := BitVec.ofBool b

/-- STATUS: CODE in bits 7:0, PENDING in bit 8, OVERRUN in bit 9, the rest 0 (10_state.md rule R35). -/
def statusWord (pt : Port) : Word :=
  (flagBit pt.overrun ++ flagBit pt.pending ++ statusNumber pt.code).setWidth 32

/-- RXSTAT: DROPPING in bit 0, the rest 0 (rule R45). -/
def rxStatWord (c : RxChannel) : Word := (flagBit c.dropping).setWidth 32

/-- HUBSTAT: SUBSCRIBED in bit 0, the roster's length in bits 15:8, the rest 0 (rule R40). -/
def hubStatWord (s : State) : Word :=
  (BitVec.ofNat 8 s.roster.length ++ (flagBit s.subscribed).setWidth 8).setWidth 32

/-- A host write to STATUS: bit 9 clears OVERRUN, every other bit is ignored (rule R35). -/
def writeStatus (v : Word) (pt : Port) : Port :=
  if v.getLsbD 9 then { pt with overrun := false } else pt

end Sys2Proof.Machine
end

