-- ==== Sys2Proof/WellFormed.lean ====
section
/-! DEFINITION. Well-formedness. The operands of `Instr` have their exact widths, so every term of `Instr` is well formed.
What can be ill formed is a configuration (00_scope.md rule R9, 41_packet.md rule R186) and a latch that sets bits its
operand form ignores (30_encoding.md rules R100 to R103). -/

namespace Sys2Proof

/-- A kind a catalog byte other than the four described ones may have: FIX(n) with n even and at most 131066, or VAR
(41_packet.md rule R186). -/
def Kind.opaqueOk : Kind → Bool
  | .fix n => n % 2 == 0 && n ≤ 131066
  | .var => true
  | _ => false

/-- The kinds of PDR's four described layouts, each of which stands exactly once in a catalog (rule R186). -/
def Kind.described : Kind → Bool
  | .obj | .mrk | .acc | .ver => true
  | _ => false

/-- CATALOG's constraint (rule R186). -/
def Config.catalogWf (c : List Kind) : Bool :=
  c.length == 20 && c.all (fun k => k.described || k.opaqueOk) &&
    c.count .obj == 1 && c.count .mrk == 1 && c.count .acc == 1 && c.count .ver == 1

/-- The constraints on the parameters (rule R9). -/
def Config.wf (c : Config) : Bool :=
  (1 ≤ c.ports && c.ports ≤ 16) && (1 ≤ c.bufBytes && c.bufBytes ≤ 2 ^ 32) &&
    (1 ≤ c.rxChannels && c.rxChannels ≤ 16) && (1 ≤ c.rosterCap && c.rosterCap ≤ 255) &&
    1 ≤ c.upqDepth && 1 ≤ c.downqDepth && (c.vendorLo == 0x80 || c.vendorLo == 0x81) &&
    Config.catalogWf c.catalog

/-- How many low bits of A0, A1, A2 and A3 a command reads (30_encoding.md rules R101 and R103). -/
structure OperandWidths where
  w0 : Nat
  w1 : Nat
  w2 : Nat
  w3 : Nat
  deriving DecidableEq, Repr

/-- The operand table of rules R101, R103 and R104, opcode by opcode, from each row's form. -/
def operandTable : List (Byte × OperandWidths) :=
  [ (0x00, ⟨0, 0, 0, 0⟩), (0x01, ⟨32, 32, 32, 32⟩), (0x02, ⟨32, 32, 0, 0⟩), (0x03, ⟨8, 32, 0, 0⟩),
    (0x04, ⟨32, 0, 0, 0⟩), (0x10, ⟨8, 0, 0, 0⟩), (0x11, ⟨32, 32, 32, 0⟩), (0x12, ⟨32, 32, 32, 32⟩),
    (0x13, ⟨32, 32, 0, 0⟩), (0x14, ⟨32, 32, 0, 0⟩), (0x15, ⟨12, 12, 0, 0⟩), (0x16, ⟨24, 0, 0, 0⟩) ] ++
  [ (0x20, ⟨32, 0, 0, 0⟩), (0x21, ⟨16, 0, 0, 0⟩), (0x22, ⟨32, 0, 0, 0⟩), (0x23, ⟨16, 0, 0, 0⟩),
    (0x30, ⟨32, 16, 0, 0⟩), (0x31, ⟨32, 16, 0, 0⟩), (0x32, ⟨32, 16, 32, 32⟩), (0x33, ⟨32, 16, 32, 32⟩),
    (0x34, ⟨0, 0, 0, 0⟩), (0x35, ⟨0, 0, 0, 0⟩), (0x36, ⟨0, 0, 0, 0⟩), (0x3F, ⟨0, 0, 0, 0⟩) ]

/-- The operand widths of an opcode, if rule R104 assigns it. -/
def operandWidths (op : Byte) : Option OperandWidths :=
  (operandTable.find? (fun r => r.1 == op)).map (·.2)

/-- A latch that is the canonical writing of a command: its opcode is assigned, its reserved bits are 0, and every
operand bit the command ignores is 0 (rules R100, R101, R104, R110). -/
def Latch.canonical (l : Latch) : Bool :=
  l.lop.extractLsb' 8 24 == 0 &&
    match operandWidths (l.lop.setWidth 8) with
    | none => false
    | some w =>
      l.a0.toNat < 2 ^ w.w0 && l.a1.toNat < 2 ^ w.w1 && l.a2.toNat < 2 ^ w.w2 && l.a3.toNat < 2 ^ w.w3

end Sys2Proof
end

