-- ==== Sys2Proof/Decode.lean ====
section
/-! DEFINITION. Decoding a latched command (30_encoding.md rules R100 to R105) and, after it, the encoder. -/

namespace Sys2Proof

/-- Why a latched word is no command. Both end with IllegalCommand (44_control.md rule R312). -/
inductive DecodeError where
  /-- Bits 31:8 of the CMD word are not all 0 (rule R105). -/
  | reservedBits
  /-- The opcode is not a row of rule R104. -/
  | unassignedOpcode
  deriving DecidableEq, Repr

/-- The uuid passed in A0 and A1[15:0] (rule R102). -/
def uuidOfWords (a0 a1 : Word) : Uuid :=
  ⟨a0.extractLsb' 0 8, a0.extractLsb' 8 8, a0.extractLsb' 16 8, a0.extractLsb' 24 8,
    a1.extractLsb' 0 8, a1.extractLsb' 8 8⟩

/-- A0 of a uuid, which ROSTER_LO also shows: u32le of bytes 0 to 3 (rule R102; 10_state.md rule R41). -/
def uuidLo (u : Uuid) : Word := u.b3 ++ u.b2 ++ u.b1 ++ u.b0

/-- A1 of a uuid, which ROSTER_HI also shows: u16le of bytes 4 and 5, upper bits 0 (rule R102; 10_state.md rule R41). -/
def uuidHi (u : Uuid) : Word := (u.b5 ++ u.b4).setWidth 32

/-- Rule R104: the command a latch holds, its operands cut to the widths of rules R101 and R103. -/
def decode (l : Latch) : Except DecodeError Instr :=
  if l.lop.extractLsb' 8 24 ≠ 0 then .error .reservedBits
  else match l.lop.setWidth 8 with
    | 0x00#8 => .ok .nop
    | 0x01#8 => .ok (.slipEnc l.a0 l.a1 l.a2 l.a3)
    | 0x02#8 => .ok (.slipDec l.a0 l.a1)
    | 0x03#8 => .ok (.slipRx (l.a0.setWidth 8) l.a1)
    | 0x04#8 => .ok (.slipRxclr l.a0)
    | 0x10#8 => .ok (.typeClass (l.a0.setWidth 8))
    | 0x11#8 => .ok (.pktSer l.a0 l.a1 l.a2)
    | 0x12#8 => .ok (.pktParse l.a0 l.a1 l.a2 l.a3)
    | 0x13#8 => .ok (.motPack l.a0 l.a1)
    | 0x14#8 => .ok (.motUnpack l.a0 l.a1)
    | 0x15#8 => .ok (.mrkPack (l.a0.setWidth 12) (l.a1.setWidth 12))
    | 0x16#8 => .ok (.mrkUnpack (l.a0.setWidth 24))
    | 0x20#8 => .ok (.convA2w l.a0)
    | 0x21#8 => .ok (.convW2a (l.a0.setWidth 16))
    | 0x22#8 => .ok (.convG2w l.a0)
    | 0x23#8 => .ok (.convW2g (l.a0.setWidth 16))
    | 0x30#8 => .ok (.hubAttach (uuidOfWords l.a0 l.a1))
    | 0x31#8 => .ok (.hubDetach (uuidOfWords l.a0 l.a1))
    | 0x32#8 => .ok (.hubRouteout (uuidOfWords l.a0 l.a1) l.a2 l.a3)
    | 0x33#8 => .ok (.hubRoutein (uuidOfWords l.a0 l.a1) l.a2 l.a3)
    | 0x34#8 => .ok .hubRequest
    | 0x35#8 => .ok .hubSub
    | 0x36#8 => .ok .hubUnsub
    | 0x3F#8 => .ok .ctrClr
    | _ => .error .unassignedOpcode

/-- The five words an assembler writes for a command, operands that are missing written as 0 (rule R110). -/
def encode : Instr → Latch
  | .nop => ⟨0x00, 0, 0, 0, 0⟩
  | .slipEnc src len dst cap => ⟨0x01, src, len, dst, cap⟩
  | .slipDec off len => ⟨0x02, off, len, 0, 0⟩
  | .slipRx byte ch => ⟨0x03, byte.setWidth 32, ch, 0, 0⟩
  | .slipRxclr ch => ⟨0x04, ch, 0, 0, 0⟩
  | .typeClass b => ⟨0x10, b.setWidth 32, 0, 0, 0⟩
  | .pktSer record dst cap => ⟨0x11, record, dst, cap, 0⟩
  | .pktParse src len record cap => ⟨0x12, src, len, record, cap⟩
  | .motPack record dst => ⟨0x13, record, dst, 0, 0⟩
  | .motUnpack src record => ⟨0x14, src, record, 0, 0⟩
  | .mrkPack x y => ⟨0x15, x.setWidth 32, y.setWidth 32, 0, 0⟩
  | .mrkUnpack v => ⟨0x16, v.setWidth 32, 0, 0, 0⟩
  | .convA2w x => ⟨0x20, x, 0, 0, 0⟩
  | .convW2a r => ⟨0x21, r.setWidth 32, 0, 0, 0⟩
  | .convG2w x => ⟨0x22, x, 0, 0, 0⟩
  | .convW2g r => ⟨0x23, r.setWidth 32, 0, 0, 0⟩
  | .hubAttach u => ⟨0x30, uuidLo u, uuidHi u, 0, 0⟩
  | .hubDetach u => ⟨0x31, uuidLo u, uuidHi u, 0, 0⟩
  | .hubRouteout u off len => ⟨0x32, uuidLo u, uuidHi u, off, len⟩
  | .hubRoutein u off len => ⟨0x33, uuidLo u, uuidHi u, off, len⟩
  | .hubRequest => ⟨0x34, 0, 0, 0, 0⟩
  | .hubSub => ⟨0x35, 0, 0, 0, 0⟩
  | .hubUnsub => ⟨0x36, 0, 0, 0, 0⟩
  | .ctrClr => ⟨0x3F, 0, 0, 0, 0⟩

/-- The latch whose five words are the bits of `w`: the CMD word in bits 31:0, A0 in bits 63:32, and so on up to A3. Bits
from `nbits` up are 0, so a table row of 32 bits has operands 0 (log entry 15). -/
def latchOfBits (nbits w : Nat) : Latch :=
  let v := w % 2 ^ nbits
  ⟨BitVec.ofNat 32 v, BitVec.ofNat 32 (v / 2 ^ 32), BitVec.ofNat 32 (v / 2 ^ 64),
    BitVec.ofNat 32 (v / 2 ^ 96), BitVec.ofNat 32 (v / 2 ^ 128)⟩

/-- The instruction the decoder reads from an instruction whose bits are `w`, numbered as spec/opcode_table.json numbers
them; none where it refuses. -/
def decodeTableWord (nbits w : Nat) : Option Instr :=
  match decode (latchOfBits nbits w) with
  | .ok i => some i
  | .error _ => none

end Sys2Proof
end

