-- ==== Sys2Proof/Machine/Operands.lean ====
section
/-! DEFINITION. The operand forms of 30_encoding.md rule R101 as the meanings use them: the range check and the overlap
test of 20_memory.md rules R73 and R74. The decoder has already cut each operand to its width (Decode.lean), so a uuid,
a type byte or a sample needs no form of its own here. -/

namespace Sys2Proof.Machine

/-- `inRange(a, n)`: on mathematical integers, so an offset plus a length never wraps (20_memory.md rule R73). -/
def inRange (s : State) (a n : Nat) : Bool := a + n ≤ s.cfg.bufBytes

/-- Two ranges overlap; an empty one overlaps nothing (20_memory.md rule R74). -/
def overlaps (a n b m : Nat) : Bool := 0 < n && 0 < m && a < b + m && b < a + n

/-- `raise BadAddress(k)`, `k` the index of the ARG register that holds the range's offset (rule R73). -/
def badAddress (s : State) (k : Nat) : Result := s.raise .badAddress (wordOf k)

/-- One operand range: checked, then the rest of the command (rule R73). Form R and the packet range of form UR
(30_encoding.md rule R101). -/
def withRange (s : State) (k a n : Nat) (rest : Result) : Result :=
  if inRange s a n then rest else badAddress s k

/-- A source range and a destination range: each checked, in the order of their ARG registers, then refused if they
overlap (rules R73 and R74). Forms RR and MM (30_encoding.md rule R101), whose offsets stand in ARG `ka` and `kb`. -/
def withRanges (s : State) (ka a n kb b m : Nat) (rest : Result) : Result :=
  withRange s ka a n (withRange s kb b m (if overlaps a n b m then s.raise .overlap 0 else rest))

end Sys2Proof.Machine
end

