-- ==== Sys2Proof/Machine/Registers.lean ====
section
/-! DEFINITION. What a host agent can do: the register space (10_state.md rules R31 to R47 and R53), the buffer space
(20_memory.md rules R71, R72, R84), and the refused accesses (60_exceptions.md rule R327). -/

namespace Sys2Proof.Machine

/-- INFO (rule R38). -/
def infoWord (c : Config) : Word :=
  c.vendorLo ++ BitVec.ofNat 8 c.rosterCap ++ BitVec.ofNat 8 c.rxChannels ++ BitVec.ofNat 8 c.ports

/-- BUFSIZE: BUF_BYTES mod 2^32 (rule R39). -/
def bufSizeWord (c : Config) : Word := BitVec.ofNat 32 c.bufBytes

/-- QSTAT (rule R43). -/
def qStatWord (s : State) : Word :=
  BitVec.ofNat 16 (min s.downQ.length 65535) ++ BitVec.ofNat 16 (min s.upQ.length 65535)

/-- A read of the register at offset `r` of a port bank; CMD and the reserved offsets read 0 (rules R33, R35, R53). -/
def readPort (pt : Port) (r : Nat) : Word :=
  if r = 0x04 then statusWord pt
  else if r = 0x08 then pt.arg0
  else if r = 0x0C then pt.arg1
  else if r = 0x10 then pt.arg2
  else if r = 0x14 then pt.arg3
  else if r = 0x18 then pt.res0
  else if r = 0x1C then pt.res1
  else 0

/-- A read of the register at offset `r` of a deframer channel's group (rule R45). -/
def readRx (c : RxChannel) (r : Nat) : Word :=
  if r = 0x0 then c.base
  else if r = 0x4 then c.cap
  else if r = 0x8 then c.len
  else if r = 0xC then rxStatWord c
  else 0

/-- A read of the global registers 0x400 to 0x424 (rules R38 to R40, R43, R47). -/
def readGlobal (s : State) (off : Nat) : Word :=
  if off = 0x400 then infoWord s.cfg
  else if off = 0x404 then bufSizeWord s.cfg
  else if off = 0x408 then hubStatWord s
  else if off = 0x40C then qStatWord s
  else if off = 0x410 then s.counters.frameErr
  else if off = 0x414 then s.counters.parseErr
  else if off = 0x418 then s.counters.routeDrop
  else if off = 0x41C then s.counters.rosterReject
  else if off = 0x420 then s.counters.rxOverflow
  else if off = 0x424 then s.counters.framesOk
  else 0

/-- ROSTER_LO and ROSTER_HI of one roster entry (rule R41). -/
def readRosterSlot (u : Uuid) (r : Nat) : Word := if r = 0 then uuidLo u else uuidHi u

/-- A 32-bit read of the register at an aligned offset (rule R53). What is not listed there reads 0. -/
def readReg (s : State) (off : Nat) : Word :=
  if off < 0x400 then
    match s.ports[off / 0x40]? with
    | some pt => readPort pt (off % 0x40)
    | none => 0
  else if off < 0x500 then readGlobal s off
  else if off < 0x600 then
    match s.rx[(off - 0x500) / 0x10]? with
    | some c => readRx c (off % 0x10)
    | none => 0
  else if off < 0x800 then 0
  else
    match s.roster[(off - 0x800) / 8]? with
    | some u => readRosterSlot u (off % 8)
    | none => 0

/-- A host write of `w` to CMD: latch the command, or set OVERRUN while one is pending (rules R33 and R34). -/
def writeCmd (w : Word) (pt : Port) : Port :=
  if pt.pending then { pt with overrun := true }
  else { pt with latch := ⟨w, pt.arg0, pt.arg1, pt.arg2, pt.arg3⟩, pending := true }

/-- A write to the register at offset `r` of a port bank; RES0, RES1 and the reserved offsets ignore it
(rules R32 to R35, R37, R53). -/
def writePort (r : Nat) (v : Word) (pt : Port) : Port :=
  if r = 0x00 then writeCmd v pt
  else if r = 0x04 then writeStatus v pt
  else if r = 0x08 then { pt with arg0 := v }
  else if r = 0x0C then { pt with arg1 := v }
  else if r = 0x10 then { pt with arg2 := v }
  else if r = 0x14 then { pt with arg3 := v }
  else pt

/-- A write to the register at offset `r` of a deframer channel's group; RXBASE and RXCAP also clear the channel, the
others ignore it (rules R45 and R46). -/
def writeRx (r : Nat) (v : Word) (c : RxChannel) : RxChannel :=
  if r = 0x0 then clearRx { c with base := v }
  else if r = 0x4 then clearRx { c with cap := v }
  else c

/-- A 32-bit write of the register at an aligned offset (rule R53). A read-only or reserved offset ignores it. -/
def writeReg (s : State) (off : Nat) (v : Word) : State :=
  if off < 0x400 then s.updatePort (off / 0x40) (writePort (off % 0x40) v)
  else if off < 0x500 then s
  else if off < 0x600 then s.updateRx ((off - 0x500) / 0x10) (writeRx (off % 0x10) v)
  else s

/-- A register access the block has: 32 bits wide, 4-byte aligned, in the 16 KiB space (rules R53, R327). -/
def regAccessOk (off width : Nat) : Bool := width == 4 && off % 4 == 0 && decide (off < 0x4000)

/-- A BUF access the block has: 1, 2 or 4 bytes, inside BUF (20_memory.md rule R71; 60_exceptions.md rule R327). -/
def bufAccessOk (s : State) (off width : Nat) : Bool :=
  (width == 1 || width == 2 || width == 4) && inRange s off width

/-- The bytes a host write of `width` bytes stores: the value's low bytes, least significant first (rules R71, R84). -/
def hostBytes (width : Nat) (v : Word) : List Byte := (le32 v).take width

/-- The value a host read returns: the bytes it read, least significant first, the upper bytes 0 (rules R71, R84). -/
def hostValue (bs : List Byte) : Word := wordAt bs 0

/-- The record of the value a host read returned (log entry 11). -/
def State.noteRead (s : State) (p : Nat) (v : Word) : State := { s with hostReads := s.hostReads ++ [(p, v)] }

/-- One access by the host of port `p`. -/
def hostAccess (p : Nat) (a : Access) (s : State) : Result :=
  match a with
  | .regRead off width =>
    if regAccessOk off width then .next (s.noteRead p (readReg s off)) else .refused (.registerAccess off width)
  | .regWrite off width v =>
    if regAccessOk off width then .next (writeReg s off v) else .refused (.registerAccess off width)
  | .bufRead off width =>
    if bufAccessOk s off width then s.reading off width fun bs => .next (s.noteRead p (hostValue bs))
    else .refused (.bufferAccess off width)
  | .bufWrite off width v =>
    if bufAccessOk s off width then .next (s.store off (hostBytes width v)) else .refused (.bufferAccess off width)

/-- An access by the host of port `p`, which is an agent only if the block has that port (10_state.md rule R30; log
entry 10). -/
def hostStep (p : Nat) (a : Access) (s : State) : Result :=
  if p < s.ports.length then hostAccess p a s else .refused (.noSuchHost p)

end Sys2Proof.Machine
end

