-- ==== Sys2Proof/Machine/Agents.lean ====
section
/-! DEFINITION. The steps of the agents beside the Engine's command execution: the consumers of the queues (10_state.md
rule R44), the reset event (70_reset_and_hazards.md rule R360), the software's program, and the assembler's statements as
steps of it (30_encoding.md rules R110 and R111). -/

namespace Sys2Proof.Machine

/-- The Upstream agent's step: the head of UpQ is handed to the upstream session. With UpQ empty the step is not enabled,
and nothing happens (rule R44; log entry 8). -/
def takeUpstream (s : State) : State :=
  match s.upQ with
  | [] => s
  | e :: rest => { s with upQ := rest, upOut := s.upOut ++ [e] }

/-- The Downstream agent's step, the same for DownQ (rule R44; log entry 8). -/
def takeDownstream (s : State) : State :=
  match s.downQ with
  | [] => s
  | e :: rest => { s with downQ := rest, downOut := s.downOut ++ [e] }

/-- The reset event: every piece of the block's state at its reset value, whatever it was (rule R360). The configuration
stays (rule R362), and so does what lies outside the block: the agents' plans and what they have received
(log entry 11). -/
def applyReset (s : State) : State :=
  { State.resetOf s.cfg with
    agenda := s.agenda, program := s.program, upOut := s.upOut, downOut := s.downOut, hostReads := s.hostReads }

/-- STATUS of port `p` as a host reads it shows PENDING = 1 (10_state.md rule R35). -/
def statusPending (p : Nat) (s : State) : Bool := (readReg s (0x40 * p + 0x04)).getLsbD 8

/-- The software takes the next step of its program (log entry 25). `wait` reads STATUS once and stays the next step while
bit 8 reads 1, so the program goes past it only after a read of 0 (30_encoding.md rule R111). `uppop` and `downpop` stay
while their queue is empty, because the consumer's step is not enabled then (10_state.md rule R44). -/
def programStep (s : State) : Result :=
  match s.program with
  | [] => .next s
  | .access p a :: rest => hostStep p a { s with program := rest }
  | .wait p :: rest =>
    hostStep p (.regRead (0x40 * p + 0x04) 4) { s with program := if statusPending p s then .wait p :: rest else rest }
  | .uppop :: rest => if s.upQ.isEmpty then .next s else .next (takeUpstream { s with program := rest })
  | .downpop :: rest => if s.downQ.isEmpty then .next s else .next (takeDownstream { s with program := rest })

/-- `wr off, v` by the host of port `p` (rule R111). -/
def asmWr (p off : Nat) (v : Word) : List ProgramStep := [.access p (.regWrite off 4 v)]

/-- `rd off` (rule R111). -/
def asmRd (p off : Nat) : List ProgramStep := [.access p (.regRead off 4)]

/-- `wait` (rule R111). -/
def asmWait (p : Nat) : List ProgramStep := [.wait p]

/-- `bw a, b0 b1 ...`: writes of width 1 (rule R111). -/
def asmBw (p a : Nat) : List Byte → List ProgramStep
  | [] => []
  | b :: bs => .access p (.bufWrite a 1 (b.setWidth 32)) :: asmBw p (a + 1) bs

/-- `bw32 a, v` (rule R111). -/
def asmBw32 (p a : Nat) (v : Word) : List ProgramStep := [.access p (.bufWrite a 4 v)]

/-- `br a, n` (rule R111). DESIGN CHOICE: as n reads of width 1, in rising order; the rule does not say with which access
widths the n bytes are read (log entry 26). -/
def asmBr (p a : Nat) : Nat → List ProgramStep
  | 0 => []
  | n + 1 => .access p (.bufRead a 1) :: asmBr p (a + 1) n

/-- The five words of a command statement: its opcode and its operands as written, those that are missing 0
(rule R110). -/
def asmEncoding (op : Byte) (args : List Word) : Latch :=
  ⟨op.setWidth 32, args.getD 0 0, args.getD 1 0, args.getD 2 0, args.getD 3 0⟩

/-- A uuid operand fills two ARG slots (rules R102 and R109). -/
def asmUuid (u : Uuid) : List Word := [uuidLo u, uuidHi u]

/-- The register writes of a command statement: ARG0 to ARG3, then CMD (rule R110). -/
def asmIssue (p : Nat) (l : Latch) : List ProgramStep :=
  asmWr p (0x40 * p + 0x08) l.a0 ++ asmWr p (0x40 * p + 0x0C) l.a1 ++ asmWr p (0x40 * p + 0x10) l.a2 ++
    asmWr p (0x40 * p + 0x14) l.a3 ++ asmWr p (0x40 * p) l.lop

/-- A command statement on port `p`: the five writes of its encoding, then `wait` (rule R110). -/
def asmCommand (p : Nat) (op : Byte) (args : List Word) : List ProgramStep :=
  asmIssue p (asmEncoding op args) ++ asmWait p

/-- `rxs c, b0 b1 ...`: SLIP.RX of each byte, then a read of RES0 and RES1 (rule R111). -/
def asmRxs (p : Nat) (ch : Word) : List Byte → List ProgramStep
  | [] => []
  | b :: bs =>
    asmCommand p 0x03 [b.setWidth 32, ch] ++ asmRd p (0x40 * p + 0x18) ++ asmRd p (0x40 * p + 0x1C) ++ asmRxs p ch bs

/-- `uppop` (rule R111). -/
def asmUppop : List ProgramStep := [.uppop]

/-- `downpop` (rule R111). -/
def asmDownpop : List ProgramStep := [.downpop]

end Sys2Proof.Machine
end

