-- ==== Sys2Proof/Machine/Float.lean ====
section
/-! DEFINITION. IEEE 754 binary32 and binary64 values, multiplication and division rounded to nearest, ties to even
(00_scope.md rule R16, 42_convert.md rule R241), on exact integers. PRESUMED: the IEEE 754 standard, which the spec
itself names as general knowledge (log entry 13). -/

namespace Sys2Proof.Machine

/-- A floating-point value: a finite one is `(-1)^neg * m * 2^e`. -/
inductive Flt where
  | nan
  | inf (neg : Bool)
  | fin (neg : Bool) (m : Nat) (e : Int)
  deriving DecidableEq, Repr

/-- A binary format: the bits of its significand, and the least and greatest exponent of a significand's last bit. -/
structure FltFormat where
  prec : Nat
  minExp : Int
  maxExp : Int
  deriving DecidableEq, Repr

/-- IEEE 754 binary32. -/
def binary32 : FltFormat := ⟨24, -149, 104⟩

/-- IEEE 754 binary64. -/
def binary64 : FltFormat := ⟨53, -1074, 971⟩

/-- The greatest `t` with `2^t ≤ num/den`, for positive `num` and `den`. -/
def ratioLog2 (num den : Nat) : Int :=
  let t : Int := (num.log2 : Int) - (den.log2 : Int)
  if den * 2 ^ t.toNat ≤ num * 2 ^ (-t).toNat then t else t - 1

/-- `num/den` rounded to the nearest natural number, ties to even. -/
def divRne (num den : Nat) : Nat :=
  let q := num / den
  let r := num % den
  if den < 2 * r ∨ (2 * r = den ∧ q % 2 = 1) then q + 1 else q

/-- RNE of the real number `(-1)^neg * (num/den) * 2^e` in a format, `den` positive (rule R16). -/
def roundTo (f : FltFormat) (neg : Bool) (num den : Nat) (e : Int) : Flt :=
  if num = 0 then .fin neg 0 f.minExp
  else
    let u : Int := max (ratioLog2 num den + e - ((f.prec : Int) - 1)) f.minExp
    let q := divRne (num * 2 ^ (e - u).toNat) (den * 2 ^ (u - e).toNat)
    if q = 2 ^ f.prec then
      if f.maxExp < u + 1 then .inf neg else .fin neg (2 ^ (f.prec - 1)) (u + 1)
    else if f.maxExp < u then .inf neg
    else .fin neg q u

/-- The product of two values, rounded once. -/
def fltMul (f : FltFormat) : Flt → Flt → Flt
  | .fin n1 m1 e1, .fin n2 m2 e2 => roundTo f (n1 != n2) (m1 * m2) 1 (e1 + e2)
  | .inf n1, .inf n2 => .inf (n1 != n2)
  | .inf n1, .fin n2 m2 _ => if m2 = 0 then .nan else .inf (n1 != n2)
  | .fin n1 m1 _, .inf n2 => if m1 = 0 then .nan else .inf (n1 != n2)
  | _, _ => .nan

/-- The quotient of two values, rounded once. -/
def fltDiv (f : FltFormat) : Flt → Flt → Flt
  | .fin n1 m1 e1, .fin n2 m2 e2 =>
    if m2 = 0 then (if m1 = 0 then .nan else .inf (n1 != n2))
    else roundTo f (n1 != n2) m1 m2 (e1 - e2)
  | .inf n1, .fin n2 _ _ => .inf (n1 != n2)
  | .fin n1 _ _, .inf n2 => .fin (n1 != n2) 0 f.minExp
  | _, _ => .nan

/-- A value rounded to a format. -/
def fltRound (f : FltFormat) : Flt → Flt
  | .fin n m e => roundTo f n m 1 e
  | x => x

/-- `fromBits32(w)`, whose value is also `f64` of it: every binary32 value is a binary64 value (rule R16). -/
def fromBits32 (w : Word) : Flt :=
  let neg := w.getLsbD 31
  let ex := (w.extractLsb' 23 8).toNat
  let fr := (w.extractLsb' 0 23).toNat
  if ex = 255 then (if fr = 0 then .inf neg else .nan)
  else if ex = 0 then .fin neg fr (-149)
  else .fin neg (2 ^ 23 + fr) ((ex : Int) - 150)

/-- The value of a binary64 encoding. -/
def fromBits64 (w : BitVec 64) : Flt :=
  let neg := w.getLsbD 63
  let ex := (w.extractLsb' 52 11).toNat
  let fr := (w.extractLsb' 0 52).toNat
  if ex = 2047 then (if fr = 0 then .inf neg else .nan)
  else if ex = 0 then .fin neg fr (-1074)
  else .fin neg (2 ^ 52 + fr) ((ex : Int) - 1075)

/-- `f64(r)` of an int16 sample: exact (rule R16). Zero is +0.0. -/
def fltOfInt (r : Int) : Flt := .fin (r < 0) r.natAbs 0

/-- `bits32(x)` of a value rounded to binary32 (rule R16). A NaN, which no conversion of this block produces, would be
the quiet NaN 0x7FC00000 (PRESUMED, log entry 13). -/
def bits32 : Flt → Word
  | .nan => 0x7FC00000
  | .inf neg => BitVec.ofBool neg ++ (0xFF#8 ++ 0#23)
  | .fin neg m e =>
    if m < 2 ^ 23 then BitVec.ofBool neg ++ (0#8 ++ BitVec.ofNat 23 m)
    else BitVec.ofBool neg ++ (BitVec.ofNat 8 (e + 150).toNat ++ BitVec.ofNat 23 (m - 2 ^ 23))

/-- The magnitude `m * 2^e` of a finite value, rounded toward zero. -/
def truncMagnitude (m : Nat) (e : Int) : Nat := m * 2 ^ e.toNat / 2 ^ (-e).toNat

end Sys2Proof.Machine
end

