-- ==== Sys2Proof/Machine/Convert.lean ====
section
/-! DEFINITION. The accel and gyro conversion family (42_convert.md). -/

namespace Sys2Proof.Machine

/-- G64, the binary64 nearest 9.80665 (rule R241). -/
def g64 : Flt := fromBits64 0x40239D013A92A305
/-- R2D64, the binary64 nearest 180/π (rule R241). -/
def r2d64 : Flt := fromBits64 0x404CA5DC1A63C1F8
/-- D2R64, the binary64 nearest π/180 (rule R241). -/
def d2r64 : Flt := fromBits64 0x3F91DF46A2529D39
/-- K64, the binary64 nearest 16.4 (rule R241). -/
def k64 : Flt := fromBits64 0x4030666666666666
/-- 2048.0, exact in binary64 (rule R241). -/
def accelLsb64 : Flt := .fin false 2048 0

/-- `satTrunc16(t)`: truncate toward zero, saturate, NaN gives 0 (rule R242). A magnitude reaches an integer bound exactly
when its truncation does. -/
def satTrunc16 : Flt → Int
  | .nan => 0
  | .inf neg => if neg then -32768 else 32767
  | .fin neg m e =>
    let k := truncMagnitude m e
    if neg then (if 32768 ≤ k then -32768 else -(k : Int))
    else (if 32767 ≤ k then 32767 else (k : Int))

/-- `accelToWire(x)` (rule R242). -/
def accelToWire (x : Word) : Int :=
  satTrunc16 (fltDiv binary64 (fltMul binary64 (fromBits32 x) accelLsb64) g64)

/-- `accelToHost(r)`, encoded (rule R242). -/
def accelToHost (r : Half) : Word :=
  bits32 (fltRound binary32 (fltDiv binary64 (fltMul binary64 (fltOfInt r.toInt) g64) accelLsb64))

/-- `gyroToWire(x)` (rule R242). -/
def gyroToWire (x : Word) : Int :=
  satTrunc16 (fltMul binary64 (fltMul binary64 (fromBits32 x) r2d64) k64)

/-- `gyroToHost(r)`, encoded (rule R242). -/
def gyroToHost (r : Half) : Word :=
  bits32 (fltRound binary32 (fltMul binary64 (fltDiv binary64 (fltOfInt r.toInt) k64) d2r64))

/-- CONV.A2W: RES0 is the int16 sign-extended to 32 bits (rule R250). -/
def execConvA2w (x : Word) (s : State) : Result := s.finish (BitVec.ofInt 32 (accelToWire x)) 0

/-- CONV.W2A (rule R251). -/
def execConvW2a (r : Half) (s : State) : Result := s.finish (accelToHost r) 0

/-- CONV.G2W: RES0 is the int16 sign-extended to 32 bits (rule R252). -/
def execConvG2w (x : Word) (s : State) : Result := s.finish (BitVec.ofInt 32 (gyroToWire x)) 0

/-- CONV.W2G (rule R253). -/
def execConvW2g (r : Half) (s : State) : Result := s.finish (gyroToHost r) 0

end Sys2Proof.Machine
end

