-- ==== Sys2Proof/Machine/Hub.lean ====
section
/-! DEFINITION. The device hub family (43_hub.md). -/

namespace Sys2Proof.Machine

/-- RES1 and RES0 of the roster commands: the roster's length. -/
def State.rosterLen (s : State) : Word := wordOf s.roster.length

/-- The snapshot a roster change pushes while SUBSCRIBED is 1 (rules R275 and R280). -/
def State.notify (s : State) : State := if s.subscribed then s.pushSnapshot else s

/-- HUB.ATTACH (rules R275 to R277). -/
def execHubAttach (u : Uuid) (s : State) : Result :=
  if s.roster.contains u then s.finish 0 s.rosterLen
  else if s.roster.length = s.cfg.rosterCap then
    (s.count countRosterReject).raise .rosterFull s.rosterLen
  else if s.subscribed && s.upFull then s.hold
  else
    let s' : State := { s with roster := s.roster ++ [u] }
    s'.notify.finish 1 s'.rosterLen

/-- HUB.DETACH (rules R280 and R281). -/
def execHubDetach (u : Uuid) (s : State) : Result :=
  if !s.roster.contains u then s.finish 0 s.rosterLen
  else if s.subscribed && s.upFull then s.hold
  else
    let s' : State := { s with roster := s.roster.filter (· ≠ u) }
    s'.notify.finish 1 s'.rosterLen

/-- HUB.ROUTEOUT (rules R283 and R284). -/
def execHubRouteout (u : Uuid) (off len : Word) (s : State) : Result :=
  withRange s 2 off.toNat len.toNat <|
    if !s.roster.contains u then (s.count countRouteDrop).finish 0 0
    else if s.downFull then s.hold
    else s.reading off.toNat len.toNat fun bytes => (s.pushDown ⟨u, bytes⟩).finish 1 0

/-- HUB.ROUTEIN: forwarded whatever SUBSCRIBED is and whether or not the device is in the roster (rules R285 and R286). -/
def execHubRoutein (u : Uuid) (off len : Word) (s : State) : Result :=
  withRange s 2 off.toNat len.toNat <|
    if s.upFull then s.hold
    else s.reading off.toNat len.toNat fun bytes => (s.pushUp (.devicePacket u bytes)).finish 1 0

/-- HUB.REQUEST (rule R287). -/
def execHubRequest (s : State) : Result :=
  if s.upFull then s.hold else s.pushSnapshot.finish s.rosterLen 0

/-- HUB.SUB: one snapshot, whether or not SUBSCRIBED was already 1 (rules R289 and R290). -/
def execHubSub (s : State) : Result :=
  if s.upFull then s.hold
  else ({ s with subscribed := true } : State).pushSnapshot.finish s.rosterLen 0

/-- HUB.UNSUB (rule R291). -/
def execHubUnsub (s : State) : Result := ({ s with subscribed := false } : State).finish 0 0

end Sys2Proof.Machine
end

