-- ==== Sys2Proof/Machine/Packet.lean ====
section
/-! DEFINITION. The packet codec family (41_packet.md): the type registry, the payload layouts, MotData, marker pairs, and
the seven commands. -/

namespace Sys2Proof.Machine

/-! Types and kinds. -/

/-- The class of a type byte (rule R185). -/
inductive TypeClass where
  | catalog (b : Byte)
  /-- The sentinel End. -/
  | endMark
  | invalid
  | vendorStart
  | vendor (b : Byte)
  | vendorEnd
  deriving DecidableEq, Repr

/-- `classify(b)` (rule R185; 90_conflicts.md C1 and C4). -/
def classify (c : Config) (b : Byte) : TypeClass :=
  if b ≤ 0x13 then .catalog b
  else if b = 0x14 then .endMark
  else if b ≤ 0x7F then .invalid
  else if b = 0x80 ∧ c.vendorLo = 0x81 then .vendorStart
  else if b ≤ 0xFE then .vendor b
  else .vendorEnd

/-- `CATALOG[b]` (rule R186). A well-formed catalog has an entry for every catalog byte; past its end the answer is VAR
(log entry 24). -/
def catalogKind (c : Config) (b : Byte) : Kind := c.catalog.getD b.toNat .var

/-- The layout kind of a sendable class (rule R185); none for a sentinel and for Invalid. -/
def sendKind (c : Config) : TypeClass → Option Kind
  | .catalog b => some (catalogKind c b)
  | .vendor _ => some .vend
  | .endMark | .invalid | .vendorStart | .vendorEnd => none

/-- The code of a kind (rule R184). -/
def kindCode : Kind → Nat
  | .obj => 1
  | .mrk => 2
  | .acc => 3
  | .ver => 4
  | .fix _ => 5
  | .var => 6
  | .vend => 7

/-- `plen(k)`, with `len` the payload length of VAR (rule R187). -/
def payloadLen (k : Kind) (len : Nat) : Nat :=
  match k with
  | .obj => 518
  | .mrk => 96
  | .acc => 16
  | .ver => 12
  | .vend => 100
  | .fix n => n
  | .var => len

/-- `hsize(k)`, with `len` the payload length of the opaque kinds (rule R187). -/
def hostSize (k : Kind) (len : Nat) : Nat :=
  match k with
  | .obj => 1812
  | .mrk => 264
  | .acc => 36
  | .ver => 32
  | .vend => 114
  | .fix _ | .var => 12 + len

/-! MotData (rules R188 and R189). -/

/-- The fourteen fields of a MotData record at their wire widths (rule R188). -/
structure MotData where
  area : Half
  cx : BitVec 12
  cy : BitVec 12
  avgBrightness : Byte
  maxBrightness : Byte
  range : BitVec 4
  radius : BitVec 4
  boundary0 : BitVec 7
  boundary1 : BitVec 7
  boundary2 : BitVec 7
  boundary3 : BitVec 7
  aspectRatio : Byte
  vx : Byte
  vy : Byte
  deriving DecidableEq, Repr

/-- The fields of the 56-byte host record at index `i`: each word gives its low bits (rules R183 and R189). -/
def motOfRecord (bs : List Byte) (i : Nat) : MotData where
  area := (wordAt bs i).setWidth 16
  cx := (wordAt bs (i + 4)).setWidth 12
  cy := (wordAt bs (i + 8)).setWidth 12
  avgBrightness := (wordAt bs (i + 12)).setWidth 8
  maxBrightness := (wordAt bs (i + 16)).setWidth 8
  range := (wordAt bs (i + 20)).setWidth 4
  radius := (wordAt bs (i + 24)).setWidth 4
  boundary0 := (wordAt bs (i + 28)).setWidth 7
  boundary1 := (wordAt bs (i + 32)).setWidth 7
  boundary2 := (wordAt bs (i + 36)).setWidth 7
  boundary3 := (wordAt bs (i + 40)).setWidth 7
  aspectRatio := (wordAt bs (i + 44)).setWidth 8
  vx := (wordAt bs (i + 48)).setWidth 8
  vy := (wordAt bs (i + 52)).setWidth 8

/-- The 56-byte host record: fourteen zero-extended words (rules R183 and R189). -/
def motRecord (h : MotData) : List Byte :=
  le32 (h.area.setWidth 32) ++ le32 (h.cx.setWidth 32) ++ le32 (h.cy.setWidth 32) ++
  le32 (h.avgBrightness.setWidth 32) ++ le32 (h.maxBrightness.setWidth 32) ++
  le32 (h.range.setWidth 32) ++ le32 (h.radius.setWidth 32) ++
  le32 (h.boundary0.setWidth 32) ++ le32 (h.boundary1.setWidth 32) ++
  le32 (h.boundary2.setWidth 32) ++ le32 (h.boundary3.setWidth 32) ++
  le32 (h.aspectRatio.setWidth 32) ++ le32 (h.vx.setWidth 32) ++ le32 (h.vy.setWidth 32)

/-- `motPack(h)`: the 16 wire bytes (rules R188 and R189). -/
def motPack (h : MotData) : List Byte :=
  [ h.area.extractLsb' 0 8, h.area.extractLsb' 8 8,
    h.cx.extractLsb' 0 8, (h.cx.extractLsb' 8 4).setWidth 8,
    h.cy.extractLsb' 0 8, (h.cy.extractLsb' 8 4).setWidth 8,
    h.avgBrightness, h.maxBrightness, h.range ++ h.radius,
    h.boundary0.setWidth 8, h.boundary1.setWidth 8, h.boundary2.setWidth 8, h.boundary3.setWidth 8,
    h.aspectRatio, h.vx, h.vy ]

/-- `motUnpack` of the 16 wire bytes at index `i` (rule R189). -/
def motUnpack (bs : List Byte) (i : Nat) : MotData where
  area := halfAt bs i
  cx := (byteAt bs (i + 3)).extractLsb' 0 4 ++ byteAt bs (i + 2)
  cy := (byteAt bs (i + 5)).extractLsb' 0 4 ++ byteAt bs (i + 4)
  avgBrightness := byteAt bs (i + 6)
  maxBrightness := byteAt bs (i + 7)
  range := (byteAt bs (i + 8)).extractLsb' 4 4
  radius := (byteAt bs (i + 8)).extractLsb' 0 4
  boundary0 := (byteAt bs (i + 9)).extractLsb' 0 7
  boundary1 := (byteAt bs (i + 10)).extractLsb' 0 7
  boundary2 := (byteAt bs (i + 11)).extractLsb' 0 7
  boundary3 := (byteAt bs (i + 12)).extractLsb' 0 7
  aspectRatio := byteAt bs (i + 13)
  vx := byteAt bs (i + 14)
  vy := byteAt bs (i + 15)

/-! Marker pairs (rule R210). -/

/-- `mkPack(x, y)` (rule R210). -/
def mkPack (x y : BitVec 12) : List Byte :=
  [x.extractLsb' 0 8, y.extractLsb' 0 4 ++ x.extractLsb' 8 4, y.extractLsb' 4 8]

/-- `mkUnpack(b0, b1, b2)` (rule R210). -/
def mkUnpack (b0 b1 b2 : Byte) : BitVec 12 × BitVec 12 :=
  (b1.extractLsb' 0 4 ++ b0, b2 ++ b1.extractLsb' 4 4)

/-! Payload layouts (rules R191 to R198). -/

/-- `packPayload(k, r)`: the payload bytes of kind `k` from the host record `r`, whose offset 0 is its TYPE word. For the
opaque kinds the payload is the record's bytes from 12 on; for VEND the data is the first LEN bytes from 16 on. -/
def packPayload (k : Kind) (r : List Byte) : List Byte :=
  match k with
  | .obj =>
    le32 (wordAt r 8) ++ (List.range 32).flatMap (fun i => motPack (motOfRecord r (12 + 56 * i))) ++
      [(wordAt r 1804).setWidth 8, (wordAt r 1808).setWidth 8]
  | .mrk =>
    (List.range 32).flatMap fun i => mkPack ((wordAt r (8 + 8 * i)).setWidth 12) ((wordAt r (12 + 8 * i)).setWidth 12)
  | .acc => le32 (wordAt r 8) ++ (List.range 6).flatMap fun i => le16 ((wordAt r (12 + 4 * i)).setWidth 16)
  | .ver => (List.range 6).flatMap fun i => le16 ((wordAt r (8 + 4 * i)).setWidth 16)
  | .vend =>
    let n := (wordAt r 12).toNat
    [(wordAt r 8).setWidth 8, (wordAt r 12).setWidth 8] ++ (r.drop 16).take n ++ List.replicate (98 - n) 0
  | .fix _ | .var => r.drop 12

/-- `unpackPayload(k, p)`: the host body, from offset 8 of the host record on. -/
def unpackPayload (k : Kind) (p : List Byte) : List Byte :=
  match k with
  | .obj =>
    le32 (wordAt p 0) ++ (List.range 32).flatMap (fun i => motRecord (motUnpack p (4 + 16 * i))) ++
      le32 ((byteAt p 516).setWidth 32) ++ le32 ((byteAt p 517).setWidth 32)
  | .mrk =>
    (List.range 32).flatMap fun i =>
      let q := mkUnpack (byteAt p (3 * i)) (byteAt p (3 * i + 1)) (byteAt p (3 * i + 2))
      le32 (q.1.setWidth 32) ++ le32 (q.2.setWidth 32)
  | .acc => le32 (wordAt p 0) ++ (List.range 6).flatMap fun i => le32 ((halfAt p (4 + 2 * i)).signExtend 32)
  | .ver => (List.range 6).flatMap fun i => le32 ((halfAt p (2 * i)).setWidth 32)
  | .vend =>
    let n := (byteAt p 1).toNat
    le32 ((byteAt p 0).setWidth 32) ++ le32 ((byteAt p 1).setWidth 32) ++ (p.drop 2).take n ++ List.replicate (98 - n) 0
  | .fix _ | .var => le32 (wordOf p.length) ++ p

/-- The four header bytes of a packet with a payload of `plen` bytes: the word-count, the type, the id (rule R180). -/
def packetHeader (plen : Nat) (t id : Byte) : List Byte :=
  le16 (BitVec.ofNat 16 ((plen + 4) / 2)) ++ [t, id]

/-! The commands. -/

/-- TYPE.CLASS (rule R190). -/
def execTypeClass (b : Byte) (s : State) : Result :=
  let done (code : Word) (k : Option Kind) : Result :=
    match k with
    | none => s.finish code 0
    | some k => s.finish code (wordOf (kindCode k + payloadLen k 0 * 2 ^ 8))
  match classify s.cfg b with
  | .invalid => s.raise .unrecognizedPacketId (b.setWidth 32)
  | .catalog b => done 1 (some (catalogKind s.cfg b))
  | .endMark => done 2 none
  | .vendorStart => done 3 none
  | .vendor _ => done 4 (some .vend)
  | .vendorEnd => done 5 none

/-- The end of PKT.SER: capacity, the record's bytes, the packet (rule R200). `record` bytes are read for `readLen`, which
leaves out vendor data at index LEN and above. -/
def serWrite (record dst cap : Nat) (t id : Byte) (k : Kind) (plen readLen : Nat) (s : State) : Result :=
  if cap < 4 + plen then s.raise .notEnoughCapacity (wordOf (4 + plen))
  else s.reading record readLen fun r =>
    (s.store dst (packetHeader plen t id ++ packPayload k r)).finish (wordOf (4 + plen)) (wordOf plen)

/-- PKT.SER's field checks (rule R201), `len` being the LEN word of an opaque kind, and then the end of the command. -/
def serChecked (record dst cap : Nat) (t id : Byte) (k : Kind) (len : Nat) (s : State) : Result :=
  match k with
  | .vend =>
    s.reading (record + 12) 4 fun w =>
      let n := (wordAt w 0).toNat
      if 98 < n then s.raise .invalidField 12 else serWrite record dst cap t id k 100 (16 + n) s
  | .fix n =>
    if len ≠ n then s.raise .invalidField 8 else serWrite record dst cap t id k n (hostSize k len) s
  | .var =>
    if len % 2 = 1 ∨ 131066 < len then s.raise .invalidField 8
    else serWrite record dst cap t id k len (hostSize k len) s
  | .obj | .mrk | .acc | .ver => serWrite record dst cap t id k (payloadLen k len) (hostSize k len) s

/-- PKT.SER of a known kind and LEN: the full record range, the output range, their overlap, then the fields (rule R200). -/
def serSized (record dst cap : Nat) (t id : Byte) (k : Kind) (len : Nat) (s : State) : Result :=
  withRanges s 0 record (hostSize k len) 1 dst cap (serChecked record dst cap t id k len s)

/-- PKT.SER of a known kind: an opaque kind's LEN word is read first, since it gives the record's size (rule R200). -/
def serKind (record dst cap : Nat) (t id : Byte) (k : Kind) (s : State) : Result :=
  match k with
  | .fix _ | .var =>
    withRange s 0 record 12 <|
      s.reading (record + 8) 4 fun w => serSized record dst cap t id k (wordAt w 0).toNat s
  | .obj | .mrk | .acc | .ver | .vend => serSized record dst cap t id k 0 s

/-- PKT.SER (rules R200 and R201). -/
def execPktSer (record dst cap : Word) (s : State) : Result :=
  withRange s 0 record.toNat 8 <|
    s.reading record.toNat 8 fun h =>
      let t := (wordAt h 0).setWidth 8
      let id := (wordAt h 4).setWidth 8
      match classify s.cfg t with
      | .invalid => s.raise .unrecognizedPacketId (t.setWidth 32)
      | .endMark | .vendorStart | .vendorEnd => s.raise .notSendable (t.setWidth 32)
      | .catalog b => serKind record.toNat dst.toNat cap.toNat t id (catalogKind s.cfg b) s
      | .vendor _ => serKind record.toNat dst.toNat cap.toNat t id .vend s

/-- `perr(c, r0)`: count the parse error, then raise it (rule R205). -/
def parseError (code : StatusCode) (r0 : Word) (s : State) : Result := (s.count countParseErr).raise code r0

/-- The end of PKT.PARSE: the host record's capacity, the record, the results (rule R205). -/
def parseWrite (record cap : Nat) (t id : Byte) (k : Kind) (p : List Byte) (s : State) : Result :=
  let size := hostSize k p.length
  if cap < size then s.raise .notEnoughCapacity (wordOf size)
  else
    (s.store record (le32 (t.setWidth 32) ++ le32 (id.setWidth 32) ++ unpackPayload k p)).finish
      (wordOf (4 + p.length)) (wordOf size)

/-- PKT.PARSE's checks of a payload: a vendor length above 98, then OPAQUE_VALIDATE's verdict on an opaque kind
(rules R197 and R205). -/
def parseChecked (record cap : Nat) (t id : Byte) (k : Kind) (p : List Byte) (s : State) : Result :=
  match k with
  | .vend =>
    if 98 < (byteAt p 1).toNat then parseError .invalidBitPattern ((byteAt p 1).setWidth 32) s
    else parseWrite record cap t id k p s
  | .fix _ | .var =>
    match Config.opaqueValidate t p with
    | .accepted => parseWrite record cap t id k p s
    | .unrecognizedPort => parseError .unrecognizedPort 0 s
    | .unrecognizedStreamUpdateAction b => parseError .unrecognizedStreamUpdateAction (b.setWidth 32) s
    | .invalidBitPattern => parseError .invalidBitPattern 0 s
  | .obj | .mrk | .acc | .ver => parseWrite record cap t id k p s

/-- PKT.PARSE of a known kind and payload length: enough input, then the id and the payload are read (rule R205). -/
def parseSized (src len record cap : Nat) (t : Byte) (k : Kind) (plen : Nat) (s : State) : Result :=
  if len < 4 + plen then parseError .unexpectedEof (t.setWidth 32) s
  else s.reading (src + 3) 1 fun h => s.reading (src + 4) plen fun p => parseChecked record cap t (byteAt h 0) k p s

/-- PKT.PARSE of a known kind: only VAR takes its length from the word-count (rules R205 and R206). -/
def parseKind (src len record cap : Nat) (t : Byte) (k : Kind) (s : State) : Result :=
  match k with
  | .var =>
    s.reading src 2 fun w =>
      let count := halfAt w 0
      if count.toNat < 2 then parseError .invalidBitPattern (count.setWidth 32) s
      else parseSized src len record cap t k (2 * count.toNat - 4) s
  | .obj | .mrk | .acc | .ver | .vend | .fix _ => parseSized src len record cap t k (payloadLen k 0) s

/-- PKT.PARSE (rules R205 to R207). -/
def execPktParse (src len record cap : Word) (s : State) : Result :=
  withRanges s 0 src.toNat len.toNat 2 record.toNat cap.toNat <|
    if len.toNat < 3 then parseError .unexpectedEof 0x100 s
    else s.reading (src.toNat + 2) 1 fun h =>
      let t := byteAt h 0
      match sendKind s.cfg (classify s.cfg t) with
      | none => parseError .unrecognizedPacketId (t.setWidth 32) s
      | some k => parseKind src.toNat len.toNat record.toNat cap.toNat t k s

/-- MOT.PACK (rule R212). -/
def execMotPack (record dst : Word) (s : State) : Result :=
  withRanges s 0 record.toNat 56 1 dst.toNat 16 <|
    s.reading record.toNat 56 fun r => (s.store dst.toNat (motPack (motOfRecord r 0))).finish 16 0

/-- MOT.UNPACK (rule R213). -/
def execMotUnpack (src record : Word) (s : State) : Result :=
  withRanges s 0 src.toNat 16 1 record.toNat 56 <|
    s.reading src.toNat 16 fun b => (s.store record.toNat (motRecord (motUnpack b 0))).finish 56 0

/-- MRK.PACK: the three bytes in RES0, byte 0 lowest (rule R216). -/
def execMrkPack (x y : BitVec 12) (s : State) : Result :=
  let b := mkPack x y
  s.finish (u32le (byteAt b 0) (byteAt b 1) (byteAt b 2) 0) 0

/-- MRK.UNPACK: x in RES0, y in RES1 (rule R217). -/
def execMrkUnpack (v : BitVec 24) (s : State) : Result :=
  let q := mkUnpack (v.extractLsb' 0 8) (v.extractLsb' 8 8) (v.extractLsb' 16 8)
  s.finish (q.1.setWidth 32) (q.2.setWidth 32)

end Sys2Proof.Machine
end

