-- ==== Sys2Proof/Machine/Slip.lean ====
section
/-! DEFINITION. The SLIP framing family (40_slip.md): slipDecode, slipEncode, SLIP.DEC, SLIP.ENC, SLIP.RX, SLIP.RXCLR. -/

namespace Sys2Proof.Machine

/-- END (rule R141). -/
def slipEnd : Byte := 0xC0
/-- ESC (rule R141). -/
def slipEsc : Byte := 0xDB
/-- ESC_END (rule R141). -/
def slipEscEnd : Byte := 0xDC
/-- ESC_ESC (rule R141). -/
def slipEscEsc : Byte := 0xDD

/-- The three decode errors of PDR (rule R142). -/
inductive SlipError where
  | doubleEsc
  | invalidEsc
  | trailingEsc
  deriving DecidableEq, Repr

/-- The status code of a decode error (60_exceptions.md rule R320). -/
def slipErrorCode : SlipError → StatusCode
  | .doubleEsc => .doubleEsc
  | .invalidEsc => .invalidEsc
  | .trailingEsc => .trailingEsc

/-- `slipDecode` on the part of a body that begins at index `k` (rule R142). The first failing escape is reported with
the index of its ESC. END inside a body is data. -/
def slipDecodeFrom (k : Nat) : List Byte → Except (SlipError × Nat) (List Byte)
  | [] => .ok []
  | c :: rest =>
    if c = slipEsc then
      match rest with
      | [] => .error (.trailingEsc, k)
      | d :: rest' =>
        if d = slipEscEnd then (slipDecodeFrom (k + 2) rest').map (slipEnd :: ·)
        else if d = slipEscEsc then (slipDecodeFrom (k + 2) rest').map (slipEsc :: ·)
        else if d = slipEsc then .error (.doubleEsc, k)
        else .error (.invalidEsc, k)
    else (slipDecodeFrom (k + 1) rest).map (c :: ·)

/-- `slipDecode(s)`: unescape one frame body (rule R142). -/
def slipDecode (s : List Byte) : Except (SlipError × Nat) (List Byte) := slipDecodeFrom 0 s

/-- The escaped form of one data byte (rule R146). -/
def slipEscape (c : Byte) : List Byte :=
  if c = slipEnd then [slipEsc, slipEscEnd]
  else if c = slipEsc then [slipEsc, slipEscEsc]
  else [c]

/-- `slipEncode(s)`: every byte escaped, then one END (rule R146). -/
def slipEncode (s : List Byte) : List Byte := s.flatMap slipEscape ++ [slipEnd]

/-- SLIP.DEC: unescape a frame body in place (rules R143 and R144). -/
def execSlipDec (off len : Word) (s : State) : Result :=
  withRange s 0 off.toNat len.toNat <|
    s.reading off.toNat len.toNat fun body =>
      match slipDecode body with
      | .ok out => (s.store off.toNat out).finish (wordOf out.length) 0
      | .error (kind, k) =>
        ((s.makeUnknown off.toNat len.toNat).count countFrameErr).raise (slipErrorCode kind) (wordOf k)

/-- SLIP.ENC: escape data and append one END (rules R146 and R147). -/
def execSlipEnc (src len dst cap : Word) (s : State) : Result :=
  withRanges s 0 src.toNat len.toNat 2 dst.toNat cap.toNat <|
    s.reading src.toNat len.toNat fun data =>
      let e := slipEncode data
      if cap.toNat < e.length then
        (s.makeUnknown dst.toNat cap.toNat).raise .notEnoughCapacity (wordOf (min e.length 0xFFFFFFFF))
      else (s.store dst.toNat e).finish (wordOf e.length) 0

/-- SLIP.RX storing a byte (rule R152). -/
def rxStore (ch : Nat) (c : RxChannel) (byte : Byte) (s : State) : Result :=
  ((s.store (c.base.toNat + c.len.toNat) [byte]).updateRx ch fun c => { c with len := c.len + 1 }).finish (c.len + 1) 0

/-- SLIP.RX of a byte that does not fit (rule R153). -/
def rxOverflow (ch : Nat) (c : RxChannel) (s : State) : Result :=
  ((s.updateRx ch fun c => { c with dropping := true }).count countRxOverflow).raise .rxOverflow c.cap

/-- SLIP.RX of END (rules R154 and R155). -/
def rxEnd (ch : Nat) (c : RxChannel) (s : State) : Result :=
  if c.dropping then (s.updateRx ch clearRx).finish 0 3
  else if c.len = 0 then s.finish 0 2
  else
    let s' := s.updateRx ch fun c => { c with len := 0 }
    s.reading c.base.toNat c.len.toNat fun body =>
      match slipDecode body with
      | .ok out => ((s'.store c.base.toNat out).count countFramesOk).finish (wordOf out.length) 1
      | .error (kind, k) =>
        ((s'.makeUnknown c.base.toNat c.len.toNat).count countFrameErr).raise (slipErrorCode kind) (wordOf k)

/-- SLIP.RX: feed one received byte to a deframer channel (rule R151). -/
def execSlipRx (byte : Byte) (ch : Word) (s : State) : Result :=
  match s.rx[ch.toNat]? with
  | none => s.raise .badChannel ch
  | some c =>
    if inRange s c.base.toNat c.cap.toNat then
      if byte = slipEnd then rxEnd ch.toNat c s
      else if c.dropping then s.finish 0 0
      else if c.len = c.cap then rxOverflow ch.toNat c s
      else rxStore ch.toNat c byte s
    else badAddress s (0x100 + ch.toNat)

/-- SLIP.RXCLR: clear a deframer channel (rule R157). -/
def execSlipRxclr (ch : Word) (s : State) : Result :=
  match s.rx[ch.toNat]? with
  | none => s.raise .badChannel ch
  | some _ => (s.updateRx ch.toNat clearRx).finish 0 0

end Sys2Proof.Machine
end

