-- ==== Sys2Proof/Machine/Dispatch.lean ====
section
/-! DEFINITION. One arm for each command (30_encoding.md rule R104). -/

namespace Sys2Proof.Machine

def exec (i : Instr) (s : State) : Host.Outcome State Fault Refusal :=
  match i with
  | .nop => Sys2Proof.Machine.execNop s
  | .slipEnc src len dst cap => Sys2Proof.Machine.execSlipEnc src len dst cap s
  | .slipDec off len => Sys2Proof.Machine.execSlipDec off len s
  | .slipRx byte ch => Sys2Proof.Machine.execSlipRx byte ch s
  | .slipRxclr ch => Sys2Proof.Machine.execSlipRxclr ch s
  | .typeClass b => Sys2Proof.Machine.execTypeClass b s
  | .pktSer record dst cap => Sys2Proof.Machine.execPktSer record dst cap s
  | .pktParse src len record cap => Sys2Proof.Machine.execPktParse src len record cap s
  | .motPack record dst => Sys2Proof.Machine.execMotPack record dst s
  | .motUnpack src record => Sys2Proof.Machine.execMotUnpack src record s
  | .mrkPack x y => Sys2Proof.Machine.execMrkPack x y s
  | .mrkUnpack v => Sys2Proof.Machine.execMrkUnpack v s
  | .convA2w x => Sys2Proof.Machine.execConvA2w x s
  | .convW2a r => Sys2Proof.Machine.execConvW2a r s
  | .convG2w x => Sys2Proof.Machine.execConvG2w x s
  | .convW2g r => Sys2Proof.Machine.execConvW2g r s
  | .hubAttach u => Sys2Proof.Machine.execHubAttach u s
  | .hubDetach u => Sys2Proof.Machine.execHubDetach u s
  | .hubRouteout u off len => Sys2Proof.Machine.execHubRouteout u off len s
  | .hubRoutein u off len => Sys2Proof.Machine.execHubRoutein u off len s
  | .hubRequest => Sys2Proof.Machine.execHubRequest s
  | .hubSub => Sys2Proof.Machine.execHubSub s
  | .hubUnsub => Sys2Proof.Machine.execHubUnsub s
  | .ctrClr => Sys2Proof.Machine.execCtrClr s

end Sys2Proof.Machine
end

