-- ==== Sys2Proof/Machine/Step.lean ====
section
/-! DEFINITION. One step of the machine: the next agent step of the agenda (10_state.md rule R30, 20_memory.md rules R75 to
R77; log entry 1). -/

namespace Sys2Proof.Machine

/-- The Engine picks port `p`: it executes the latched command if one is pending there (10_state.md rule R36, 30_encoding.md
rule R104). With nothing pending, or no such port, the step is not enabled and nothing happens (log entry 8). -/
def engineStep (p : Nat) (s : State) : Result :=
  match s.ports[p]? with
  | none => .next s
  | some pt =>
    if pt.pending then
      match decode pt.latch with
      | .ok i => exec i { s with served := p }
      | .error _ => illegalCommand pt.latch.lop { s with served := p }
    else .next s

/-- The step of one agent. -/
def agentStep (a : AgentStep) (s : State) : Result :=
  match a with
  | .engine p => engineStep p s
  | .host p acc => hostStep p acc s
  | .program => programStep s
  | .upstream => .next (takeUpstream s)
  | .downstream => .next (takeDownstream s)
  | .reset => .next (applyReset s)

/-- One step: the first agent step of the agenda. With an empty agenda no agent moves (log entries 1 and 8). -/
def step (s : State) : Host.Outcome State Fault Refusal :=
  match s.agenda with
  | [] => .next s
  | a :: rest => agentStep a { s with agenda := rest }

/-- `s` with the command whose bits are `w` latched and pending on port 0, and the Engine's pick of port 0 as the next
agent step, so that the very next step executes it (log entries 1 and 15). -/
def State.withFetchWord (s : State) (nbits w : Nat) : State :=
  { s.updatePort 0 (fun pt => { pt with latch := latchOfBits nbits w, pending := true }) with
    agenda := .engine 0 :: s.agenda }

end Sys2Proof.Machine
end

