-- ==== Sys2Proof/Safety.lean ====
section
/-! DEFINITION. What a good state is and what a safe run is, in the terms the statements use. -/

namespace Sys2Proof.Machine

/-- A deframer channel never holds more raw bytes than its area (40_slip.md rule R150). -/
def RxChannel.Good (c : RxChannel) : Prop := c.len.toNat ≤ c.cap.toNat

/-- The invariants the spec states of the block's state: the configuration keeps rule R9's constraints; there are PORTS
banks and RX_CHANNELS channels (10_state.md rules R31, R45); the roster is no longer than ROSTER_CAP and holds no uuid
twice (rule R41); the queues are no longer than their depths (rule R44); RXLEN is at most RXCAP in every channel
(40_slip.md rule R150); BUF is in its canonical form and lists no cell at or past BUF_BYTES (rule R48). -/
structure State.Inv (s : State) : Prop where
  cfg_wf : s.cfg.wf = true
  ports_length : s.ports.length = s.cfg.ports
  rx_length : s.rx.length = s.cfg.rxChannels
  roster_length : s.roster.length ≤ s.cfg.rosterCap
  roster_nodup : s.roster.Nodup
  upQ_length : s.upQ.length ≤ s.cfg.upqDepth
  downQ_length : s.downQ.length ≤ s.cfg.downqDepth
  rx_good : ∀ c ∈ s.rx, c.Good
  buf_wf : s.buf.wf = true
  buf_bound : ∀ c ∈ s.buf, c.1 < s.cfg.bufBytes

/-! What a statement says of BUF, cell by cell through `Memory.lookup`. -/

/-- The cells from `a` up hold the bytes `bs`. -/
def Memory.Holds (m : Memory) (a : Nat) (bs : List Byte) : Prop :=
  ∀ i b, bs[i]? = some b → m.lookup (a + i) = some b

/-- Every cell reads as before. -/
def Memory.Keeps (m m' : Memory) : Prop := ∀ x, m'.lookup x = m.lookup x

/-- The bytes `bs` are stored from `a` up and every other cell reads as before. -/
def Memory.Stores (m m' : Memory) (a : Nat) (bs : List Byte) : Prop :=
  m'.Holds a bs ∧ ∀ x, x < a ∨ a + bs.length ≤ x → m'.lookup x = m.lookup x

/-- The `n` cells from `a` up are Unknown and every other cell reads as before. -/
def Memory.Forgets (m m' : Memory) (a n : Nat) : Prop :=
  (∀ x, a ≤ x → x < a + n → m'.lookup x = none) ∧ ∀ x, x < a ∨ a + n ≤ x → m'.lookup x = m.lookup x

/-- The cell at `x` is the first of the `n` cells from `a` up that is Unknown (20_memory.md rule R72, log entry 7). -/
def Memory.FirstUnknown (m : Memory) (a n x : Nat) : Prop :=
  a ≤ x ∧ x < a + n ∧ m.lookup x = none ∧ ∀ y, a ≤ y → y < x → m.lookup y ≠ none

/-- Two ranges do not overlap; an empty one overlaps nothing (20_memory.md rule R74). -/
def Apart (a n b m : Nat) : Prop := n = 0 ∨ m = 0 ∨ a + n ≤ b ∨ b + m ≤ a

/-! What a statement says of the port banks. -/

/-- From `s` to `t` the command of the port served completes: its CODE, RES0 and RES1 are these, PENDING is 0, the rest of
its bank and every other bank are as before (10_state.md rules R31, R32, R36, R37). -/
def State.Completes (s t : State) (code : StatusCode) (r0 r1 : Word) : Prop :=
  t.ports.length = s.ports.length ∧ (∀ q, q ≠ s.served → t.ports[q]? = s.ports[q]?) ∧
    ∀ pt, s.ports[s.served]? = some pt →
      t.ports[s.served]? = some { pt with code := code, res0 := r0, res1 := r1, pending := false }

/-- The command completes with this code and these results, and nothing but the bank of the port served changes. -/
def State.CompletesOnly (s : State) (i : Instr) (code : StatusCode) (r0 r1 : Word) : Prop :=
  ∃ t, exec i s = .next t ∧ s.Completes t code r0 r1 ∧ t = { s with ports := t.ports }

/-- The block's part of a state as 10_state.md rule R52 gives it after reset, whatever the configuration; of the latch it
says nothing. -/
def State.AtReset (t : State) : Prop :=
  t.ports.length = t.cfg.ports ∧
  (∀ pt ∈ t.ports, pt.arg0 = 0 ∧ pt.arg1 = 0 ∧ pt.arg2 = 0 ∧ pt.arg3 = 0 ∧ pt.res0 = 0 ∧ pt.res1 = 0 ∧
    pt.code = .ok ∧ pt.pending = false ∧ pt.overrun = false) ∧
  t.roster = [] ∧ t.subscribed = false ∧ t.upQ = [] ∧ t.downQ = [] ∧
  t.rx.length = t.cfg.rxChannels ∧
  (∀ c ∈ t.rx, c.base = 0 ∧ c.cap = 0 ∧ c.len = 0 ∧ c.dropping = false) ∧
  (t.counters.frameErr = 0 ∧ t.counters.parseErr = 0 ∧ t.counters.routeDrop = 0 ∧ t.counters.rosterReject = 0 ∧
    t.counters.rxOverflow = 0 ∧ t.counters.framesOk = 0) ∧
  (∀ a, t.buf.lookup a = none) ∧
  readReg t 0x400 = t.cfg.vendorLo ++ BitVec.ofNat 8 t.cfg.rosterCap ++ BitVec.ofNat 8 t.cfg.rxChannels ++
    BitVec.ofNat 8 t.cfg.ports ∧
  readReg t 0x404 = BitVec.ofNat 32 t.cfg.bufBytes

/-! What a statement says of packets. -/

/-- The widths in bits of the fourteen words of a MotData host record, in order (41_packet.md rules R188 and R189). -/
def motWidths : List Nat := [16, 12, 12, 8, 8, 4, 4, 7, 7, 7, 7, 8, 8, 8]

/-- A host record in canonical form (41_packet.md rules R183 and R198): the TYPE and ID words and every field word within
their wire widths, the int16 samples sign-extended, vendor data at index LEN and above 0. -/
def CanonicalRecord (k : Kind) (r : List Byte) : Prop :=
  (wordAt r 0).toNat < 2 ^ 8 ∧ (wordAt r 4).toNat < 2 ^ 8 ∧
  match k with
  | .obj =>
    (∀ i j w, i < 32 → motWidths[j]? = some w → (wordAt r (12 + 56 * i + 4 * j)).toNat < 2 ^ w) ∧
      (wordAt r 1804).toNat < 2 ^ 8 ∧ (wordAt r 1808).toNat < 2 ^ 8
  | .mrk => ∀ i, i < 64 → (wordAt r (8 + 4 * i)).toNat < 2 ^ 12
  | .acc => ∀ i, i < 6 → wordAt r (12 + 4 * i) = ((wordAt r (12 + 4 * i)).setWidth 16).signExtend 32
  | .ver => ∀ i, i < 6 → (wordAt r (8 + 4 * i)).toNat < 2 ^ 16
  | .vend =>
    (wordAt r 8).toNat < 2 ^ 8 ∧ (wordAt r 12).toNat ≤ 98 ∧
      ∀ j, (wordAt r 12).toNat ≤ j → j < 98 → byteAt r (16 + j) = 0
  | .fix _ | .var => (wordAt r 8).toNat = r.length - 12

/-- The word at offset `o` of a byte sequence is the number `n`, least significant byte first. -/
def WordIs (r : List Byte) (o n : Nat) : Prop := ∀ j, j < 4 → (byteAt r (o + j)).toNat = n / 256 ^ j % 256

/-- The sixteen wire bytes from offset `b` of `p` are those of the MotData host record at offset `a` of `r`
(41_packet.md rules R188 and R189). -/
def MotWireAt (r : List Byte) (a : Nat) (p : List Byte) (b : Nat) : Prop :=
  byteAt p b = byteAt r a ∧ byteAt p (b + 1) = byteAt r (a + 1) ∧
  byteAt p (b + 2) = byteAt r (a + 4) ∧ (byteAt p (b + 3)).toNat = (byteAt r (a + 5)).toNat % 16 ∧
  byteAt p (b + 4) = byteAt r (a + 8) ∧ (byteAt p (b + 5)).toNat = (byteAt r (a + 9)).toNat % 16 ∧
  byteAt p (b + 6) = byteAt r (a + 12) ∧ byteAt p (b + 7) = byteAt r (a + 16) ∧
  (byteAt p (b + 8)).toNat = (byteAt r (a + 20)).toNat % 16 * 16 + (byteAt r (a + 24)).toNat % 16 ∧
  (∀ j, j < 4 → (byteAt p (b + 9 + j)).toNat = (byteAt r (a + 28 + 4 * j)).toNat % 128) ∧
  ∀ j, j < 3 → byteAt p (b + 13 + j) = byteAt r (a + 44 + 4 * j)

/-- The fourteen words from offset `a` of `r` are the MotData of the sixteen wire bytes at offset `b` of `p`
(41_packet.md rules R188 and R189). -/
def MotRecordAt (p : List Byte) (b : Nat) (r : List Byte) (a : Nat) : Prop :=
  WordIs r a ((byteAt p b).toNat + 256 * (byteAt p (b + 1)).toNat) ∧
  WordIs r (a + 4) ((byteAt p (b + 2)).toNat + 256 * ((byteAt p (b + 3)).toNat % 16)) ∧
  WordIs r (a + 8) ((byteAt p (b + 4)).toNat + 256 * ((byteAt p (b + 5)).toNat % 16)) ∧
  WordIs r (a + 12) (byteAt p (b + 6)).toNat ∧ WordIs r (a + 16) (byteAt p (b + 7)).toNat ∧
  WordIs r (a + 20) ((byteAt p (b + 8)).toNat / 16) ∧ WordIs r (a + 24) ((byteAt p (b + 8)).toNat % 16) ∧
  (∀ j, j < 4 → WordIs r (a + 28 + 4 * j) ((byteAt p (b + 9 + j)).toNat % 128)) ∧
  ∀ j, j < 3 → WordIs r (a + 44 + 4 * j) (byteAt p (b + 13 + j)).toNat

/-- The payload bytes `p` are what the wire layout of a described kind makes of the host record `r`, offset by offset
(41_packet.md rules R191 to R194 and R210). -/
def WireLayout (k : Kind) (r p : List Byte) : Prop :=
  p.length = payloadLen k 0 ∧
  match k with
  | .obj =>
    (∀ j, j < 4 → byteAt p j = byteAt r (8 + j)) ∧
      (∀ i, i < 16 → MotWireAt r (12 + 56 * i) p (4 + 16 * i) ∧ MotWireAt r (908 + 56 * i) p (260 + 16 * i)) ∧
      byteAt p 516 = byteAt r 1804 ∧ byteAt p 517 = byteAt r 1808
  | .mrk => ∀ i, i < 32 →
      byteAt p (3 * i) = byteAt r (8 + 8 * i) ∧
      (byteAt p (3 * i + 1)).toNat =
        (byteAt r (9 + 8 * i)).toNat % 16 + 16 * ((byteAt r (12 + 8 * i)).toNat % 16) ∧
      (byteAt p (3 * i + 2)).toNat =
        (byteAt r (12 + 8 * i)).toNat / 16 + 16 * ((byteAt r (13 + 8 * i)).toNat % 16)
  | .acc =>
    (∀ j, j < 4 → byteAt p j = byteAt r (8 + j)) ∧
      ∀ i, i < 6 → byteAt p (4 + 2 * i) = byteAt r (12 + 4 * i) ∧ byteAt p (5 + 2 * i) = byteAt r (13 + 4 * i)
  | .ver =>
    ∀ i, i < 6 → byteAt p (2 * i) = byteAt r (8 + 4 * i) ∧ byteAt p (2 * i + 1) = byteAt r (9 + 4 * i)
  | .vend | .fix _ | .var => False

/-- The host record `r`, from its offset 8 on, is what the layout of a described or vendor kind makes of the payload `p`,
word by word (41_packet.md rules R183, R191 to R195 and R210). -/
def RecordLayout (k : Kind) (p r : List Byte) : Prop :=
  r.length = hostSize k 0 ∧
  match k with
  | .obj =>
    (∀ j, j < 4 → byteAt r (8 + j) = byteAt p j) ∧
      (∀ i, i < 16 → MotRecordAt p (4 + 16 * i) r (12 + 56 * i) ∧ MotRecordAt p (260 + 16 * i) r (908 + 56 * i)) ∧
      WordIs r 1804 (byteAt p 516).toNat ∧ WordIs r 1808 (byteAt p 517).toNat
  | .mrk => ∀ i, i < 32 →
      WordIs r (8 + 8 * i) ((byteAt p (3 * i)).toNat + 256 * ((byteAt p (3 * i + 1)).toNat % 16)) ∧
      WordIs r (12 + 8 * i) ((byteAt p (3 * i + 1)).toNat / 16 + 16 * (byteAt p (3 * i + 2)).toNat)
  | .acc =>
    (∀ j, j < 4 → byteAt r (8 + j) = byteAt p j) ∧
      ∀ i, i < 6 →
        let sample := (byteAt p (4 + 2 * i)).toNat + 256 * (byteAt p (5 + 2 * i)).toNat
        WordIs r (12 + 4 * i) (if sample < 32768 then sample else sample + 0xFFFF0000)
  | .ver => ∀ i, i < 6 →
      WordIs r (8 + 4 * i) ((byteAt p (2 * i)).toNat + 256 * (byteAt p (2 * i + 1)).toNat)
  | .vend =>
    WordIs r 8 (byteAt p 0).toNat ∧ WordIs r 12 (byteAt p 1).toNat ∧
      ∀ j, j < 98 → byteAt r (16 + j) = if j < (byteAt p 1).toNat then byteAt p (2 + j) else 0
  | .fix _ | .var => False

/-! What a statement says of floating-point values. -/

/-- The rational number a finite value is. -/
def Flt.rat (neg : Bool) (m : Nat) (e : Int) : ℚ := (if neg then -1 else 1) * m * 2 ^ e

/-- One value is at most another: the order of the numbers, with the infinities at its ends; a NaN is related to
nothing. -/
def Flt.Le : Flt → Flt → Prop
  | .nan, _ => False
  | _, .nan => False
  | .inf true, _ => True
  | _, .inf false => True
  | .fin n m e, .fin n' m' e' => Flt.rat n m e ≤ Flt.rat n' m' e'
  | .inf false, .fin _ _ _ => False
  | .fin _ _ _, .inf true => False
  | .inf false, .inf true => False

/-- One value is below another. -/
def Flt.Lt (x y : Flt) : Prop := x.Le y ∧ ¬ y.Le x

/-- The value is finite, and this rational number. -/
def Flt.IsRat (x : Flt) (v : ℚ) : Prop :=
  match x with
  | .fin n m e => v = Flt.rat n m e
  | .nan | .inf _ => False

/-- A step is safe when it is neither the model fault nor a refusal: the run goes on. -/
def Result.Safe (r : Result) : Prop := ∃ t, r = .next t

/-- The state after a run of `n` safe steps. -/
inductive RunsTo : Nat → State → State → Prop where
  | refl (s : State) : RunsTo 0 s s
  | step {n : Nat} {s t u : State} (h : Sys2Proof.Machine.step s = .next t) (r : RunsTo n t u) : RunsTo (n + 1) s u

end Sys2Proof.Machine
end

