-- ==== Sys2Proof/Certificates/Slice0/Obligations.lean ====
section
/-! DEFINITION. The statements for the provers, in the order of OBLIGATIONS.json.

A statement about `step` says through the model's own fields which agent moves (`agenda`, log entry 1), which port the
Engine serves (`served`, log entry 12), what the software's program is (`program`, log entry 25), and what host reads
and the consumers were given (`hostReads`, `upOut`, `downOut`, log entry 11). -/

open Sys2Proof Sys2Proof.Machine

/-! Decoding. -/

/-- Decode and encode agree on every command, with every operand at every value (30_encoding.md rules R100 to R104). -/
def Obligations.DecodeOfEncodeIsTheCommand : Prop :=
  ∀ i : Instr, decode (encode i) = .ok i

/-- Every canonical latch is the encoding of the one command it decodes to (rules R100, R101, R104). -/
def Obligations.CanonicalLatchIsItsEncoding : Prop :=
  ∀ l : Latch, l.canonical = true → ∃ i, decode l = .ok i ∧ encode i = l

/-- Rule R101: bits of an operand that the command's form does not name, and operands it does not name, are ignored. -/
def Obligations.UnnamedOperandBitsAreIgnored : Prop :=
  ∀ (l l' : Latch) (w : OperandWidths),
    l.lop = l'.lop → operandWidths (l.lop.setWidth 8) = some w →
    l.a0.toNat % 2 ^ w.w0 = l'.a0.toNat % 2 ^ w.w0 → l.a1.toNat % 2 ^ w.w1 = l'.a1.toNat % 2 ^ w.w1 →
    l.a2.toNat % 2 ^ w.w2 = l'.a2.toNat % 2 ^ w.w2 → l.a3.toNat % 2 ^ w.w3 = l'.a3.toNat % 2 ^ w.w3 →
    decode l = decode l'

/-- Words of rule R104's table and of the programs of 95_test_vectors.md decode to the commands they stand for. -/
def Obligations.WrittenOutWordsDecode : Prop :=
  decodeTableWord 32 0x00000000 = some .nop ∧
  decodeTableWord 32 0x00000035 = some .hubSub ∧
  decodeTableWord 32 0x00000005 = none ∧
  decodeTableWord 32 0x00000105 = none ∧
  decode ⟨0x00000001, 0x40, 0x14, 0x60, 0x30⟩ = .ok (.slipEnc 0x40 20 0x60 48) ∧
  decode ⟨0x00000003, 0xDB, 0, 0, 0⟩ = .ok (.slipRx 0xDB 0) ∧
  decode ⟨0x00000015, 0x800, 0x11, 0, 0⟩ = .ok (.mrkPack 2048 17) ∧
  decode ⟨0x00000023, 0xFFFFFFDB, 0, 0, 0⟩ = .ok (.convW2g 0xFFDB) ∧
  decode ⟨0x00000033, 0x14131211, 0x00001615, 0, 4⟩ = .ok (.hubRoutein ⟨0x11, 0x12, 0x13, 0x14, 0x15, 0x16⟩ 0 4)

/-! The machine. -/

/-- The Engine's step at a pending port is `exec` of the command latched there (10_state.md rule R36, 30_encoding.md
rule R104). The Engine runs nothing at a port with PENDING 0 or at one the block does not have; that a pick of such a
port is a step that changes nothing of the block, where the spec says no step is enabled, is the model's choice (log
entry 8). -/
def Obligations.EngineStepRunsTheLatchedCommand : Prop :=
  ∀ (s : State) (p : Nat) (rest : List AgentStep), s.agenda = .engine p :: rest →
    (∀ (pt : Port) (i : Instr), s.ports[p]? = some pt → pt.pending = true → decode pt.latch = .ok i →
      step s = exec i { s with agenda := rest, served := p }) ∧
    ((s.ports[p]? = none ∨ ∃ pt, s.ports[p]? = some pt ∧ pt.pending = false) →
      step s = .next { s with agenda := rest })

/-- Rule R312: a latched word with a reserved bit set, or with an opcode rule R104 does not list, ends with
IllegalCommand, RES0 the whole word, and changes nothing else. -/
def Obligations.IllegalWordCompletesWithIllegalCommand : Prop :=
  ∀ (s : State) (p : Nat) (rest : List AgentStep) (pt : Port),
    s.agenda = .engine p :: rest → s.ports[p]? = some pt → pt.pending = true →
    (pt.latch.lop.extractLsb' 8 24 ≠ 0 ∨
      pt.latch.lop.toNat % 256 ∉ [0x00, 0x01, 0x02, 0x03, 0x04, 0x10, 0x11, 0x12, 0x13, 0x14, 0x15, 0x16, 0x20, 0x21,
        0x22, 0x23, 0x30, 0x31, 0x32, 0x33, 0x34, 0x35, 0x36, 0x3F]) →
    ∃ t, step s = .next t ∧
      ({ s with agenda := rest, served := p } : State).Completes t .illegalCommand pt.latch.lop 0 ∧
      t = { s with agenda := rest, served := p, ports := t.ports }

/-- Every step keeps the invariants of the block's state (00_scope.md rule R9, 10_state.md rules R31, R41, R44, R45,
R48, 40_slip.md rule R150). -/
def Obligations.EveryStepKeepsTheInvariants : Prop :=
  ∀ s t : State, s.Inv → step s = .next t → t.Inv

/-- The invariants hold after reset, in every configuration that keeps rule R9's constraints. The configuration of
`State.reset` itself is the model's choice (log entry 3). -/
def Obligations.ResetHasTheInvariants : Prop :=
  (∀ c : Config, c.wf = true → (State.resetOf c).Inv) ∧ State.reset.Inv

/-- Rule R52: what reset leaves, in every configuration. -/
def Obligations.ResetLeavesTheValuesOfTheTable : Prop :=
  ∀ c : Config, (State.resetOf c).AtReset ∧ (State.resetOf c).cfg = c

/-- Rule R360: the reset event is one step that gives every piece of the block's state its reset value, whatever it was;
UpQ and DownQ are emptied without being consumed. The configuration stays (rule R362). -/
def Obligations.ResetEventResetsTheWholeBlock : Prop :=
  ∀ (s : State) (rest : List AgentStep), s.agenda = .reset :: rest →
    ∃ t, step s = .next t ∧ t.AtReset ∧ t.cfg = s.cfg ∧ t.upOut = s.upOut ∧ t.downOut = s.downOut

/-- Rule R362: no step changes the configuration. -/
def Obligations.NoStepChangesTheConfiguration : Prop :=
  ∀ s t : State, step s = .next t → t.cfg = s.cfg

/-- A command changes no other port's bank, and of its own bank neither an ARG register, nor the latch, nor OVERRUN
(10_state.md rules R31, R32, R50; 20_memory.md rule R75). -/
def Obligations.CommandLeavesOtherBanksAndArgumentsAlone : Prop :=
  ∀ (i : Instr) (s t : State), exec i s = .next t →
    t.ports.length = s.ports.length ∧ (∀ q, q ≠ s.served → t.ports[q]? = s.ports[q]?) ∧
    ∀ pt, s.ports[s.served]? = some pt → ∃ pt', t.ports[s.served]? = some pt' ∧
      pt'.arg0 = pt.arg0 ∧ pt'.arg1 = pt.arg1 ∧ pt'.arg2 = pt.arg2 ∧ pt'.arg3 = pt.arg3 ∧
      pt'.latch = pt.latch ∧ pt'.overrun = pt.overrun

/-- A command that gives a next state completes, or is a hub command held on a full queue and changes nothing
(10_state.md rule R36, 43_hub.md rule R272). That an Engine pick of a held command is a step that changes nothing, where
the spec says no step is enabled, is the model's choice (log entry 9). -/
def Obligations.CommandCompletesOrIsHeld : Prop :=
  ∀ (i : Instr) (s t : State), exec i s = .next t →
    (∃ code r0 r1, s.Completes t code r0 r1) ∨
    (t = s ∧ ((s.upQ.length = s.cfg.upqDepth ∧
        ((∃ u, i = .hubAttach u ∨ i = .hubDetach u) ∨ (∃ u off len, i = .hubRoutein u off len) ∨
          i = .hubRequest ∨ i = .hubSub)) ∨
      (s.downQ.length = s.cfg.downqDepth ∧ ∃ u off len, i = .hubRouteout u off len)))

/-- 60_exceptions.md rules R320 and R321: a command that ends with an error code has RES1 = 0, leaves ROSTER,
SUBSCRIBED and the queues alone, changes no deframer channel unless it is SLIP.RX, and leaves every BUF cell as it was
or Unknown. -/
def Obligations.ErrorsChangeNoHubStateAndWriteNoByte : Prop :=
  ∀ (i : Instr) (s t : State) (pt : Port) (code : StatusCode) (r0 r1 : Word),
    exec i s = .next t → s.ports[s.served]? = some pt → pt.pending = true → s.Completes t code r0 r1 → code ≠ .ok →
    r1 = 0 ∧ t.roster = s.roster ∧ t.subscribed = s.subscribed ∧ t.upQ = s.upQ ∧ t.downQ = s.downQ ∧
      ((∀ b ch, i ≠ .slipRx b ch) → t.rx = s.rx) ∧
      ∀ a, t.buf.lookup a = s.buf.lookup a ∨ t.buf.lookup a = none

/-- Rules R270 and R42: only HUB.ATTACH and HUB.DETACH change ROSTER, only HUB.SUB and HUB.UNSUB change SUBSCRIBED (the
first to 1, the second to 0), and no host or consumer step changes either. -/
def Obligations.OnlyHubCommandsChangeTheHub : Prop :=
  (∀ (i : Instr) (s t : State), exec i s = .next t →
    (t.roster ≠ s.roster → ∃ u, i = .hubAttach u ∨ i = .hubDetach u) ∧
    (t.subscribed ≠ s.subscribed →
      (i = .hubSub ∧ t.subscribed = true) ∨ (i = .hubUnsub ∧ t.subscribed = false))) ∧
  ∀ (a : AgentStep) (s t : State), agentStep a s = .next t → (∀ p, a ≠ .engine p) → a ≠ .reset →
    t.roster = s.roster ∧ t.subscribed = s.subscribed

/-- 20_memory.md rule R78, 43_hub.md rule R293 (the spec marks both as derived, from rules R44 and R77): what a
consumer has been handed and its queue, in order, only grow at the end, by at most one entry a step; reset empties the
queues. -/
def Obligations.QueuesDeliverInPushOrder : Prop :=
  ∀ s t : State, step s = .next t → s.agenda.head? ≠ some .reset →
    (∃ new : List UpEntry, new.length ≤ 1 ∧ t.upOut ++ t.upQ = s.upOut ++ s.upQ ++ new) ∧
    ∃ new : List DownEntry, new.length ≤ 1 ∧ t.downOut ++ t.downQ = s.downOut ++ s.downQ ++ new

/-- Rules R72 and R325, with the reads of rules R143, R146, R154, R200, R201, R205, R212, R213, R283 and R285: a
command never refuses, faults only with UnknownRead, at a cell of BUF that is Unknown, and does fault when a MemRead
of its pseudocode meets one: for each MemRead of each command, with the checks before it passed and the cells read
before it Known. That the fault names the first Unknown cell of that read is log entry 7, that reads and checks come
in the order of the pseudocode is log entry 16, and that PKT.SER and MOT.PACK read all four bytes of every word of the
host record, the unused upper ones too, is log entry 17. -/
def Obligations.CommandStopsOnlyAtAnUnknownCell : Prop :=
  (∀ (i : Instr) (s : State), (∀ r, exec i s ≠ .refused r) ∧
    ∀ f, s.Inv → exec i s = .fault f →
      ∃ off, f = .unknownRead off ∧ off < s.cfg.bufBytes ∧ s.buf.lookup off = none) ∧
  ∀ (s : State) (x : Nat),
    let stops (i : Instr) : Prop := exec i s = .fault (.unknownRead x)
    (∀ (a n : Word), a.toNat + n.toNat ≤ s.cfg.bufBytes → s.buf.FirstUnknown a.toNat n.toNat x →
      stops (.slipDec a n) ∧
      (∀ c d : Word, c.toNat + d.toNat ≤ s.cfg.bufBytes → Apart a.toNat n.toNat c.toNat d.toNat →
        stops (.slipEnc a n c d)) ∧
      ∀ u, (u ∈ s.roster → s.downQ.length ≠ s.cfg.downqDepth → stops (.hubRouteout u a n)) ∧
        (s.upQ.length ≠ s.cfg.upqDepth → stops (.hubRoutein u a n))) ∧
    (∀ a c : Word, a.toNat + 56 ≤ s.cfg.bufBytes → c.toNat + 16 ≤ s.cfg.bufBytes → Apart a.toNat 56 c.toNat 16 →
      s.buf.FirstUnknown a.toNat 56 x → stops (.motPack a c)) ∧
    (∀ a c : Word, a.toNat + 16 ≤ s.cfg.bufBytes → c.toNat + 56 ≤ s.cfg.bufBytes → Apart a.toNat 16 c.toNat 56 →
      s.buf.FirstUnknown a.toNat 16 x → stops (.motUnpack a c)) ∧
    (∀ (ch : Word) (c : RxChannel), s.rx[ch.toNat]? = some c → c.base.toNat + c.cap.toNat ≤ s.cfg.bufBytes →
      c.dropping = false → s.buf.FirstUnknown c.base.toNat c.len.toNat x → stops (.slipRx 0xC0#8 ch)) ∧
    (∀ record dst cap : Word, record.toNat + 8 ≤ s.cfg.bufBytes →
      (s.buf.FirstUnknown record.toNat 8 x → stops (.pktSer record dst cap)) ∧
      ∀ (h : List Byte) (k : Kind), h.length = 8 → s.buf.Holds record.toNat h →
        sendKind s.cfg (classify s.cfg (byteAt h 0)) = some k →
        (k ≠ .vend → k.described = false → record.toNat + 12 ≤ s.cfg.bufBytes →
          s.buf.FirstUnknown (record.toNat + 8) 4 x → stops (.pktSer record dst cap)) ∧
        ∀ n : Word, (k.described = false → k ≠ .vend → s.buf.Holds (record.toNat + 8) (le32 n)) →
          record.toNat + hostSize k n.toNat ≤ s.cfg.bufBytes → dst.toNat + cap.toNat ≤ s.cfg.bufBytes →
          Apart record.toNat (hostSize k n.toNat) dst.toNat cap.toNat →
          (k = .vend → s.buf.FirstUnknown (record.toNat + 12) 4 x → stops (.pktSer record dst cap)) ∧
          (4 + payloadLen k n.toNat ≤ cap.toNat →
            (k.described = true ∨ k = .fix n.toNat ∨ (k = .var ∧ n.toNat % 2 = 0 ∧ n.toNat ≤ 131066) →
              s.buf.FirstUnknown record.toNat (hostSize k n.toNat) x → stops (.pktSer record dst cap)) ∧
            (k = .vend → n.toNat ≤ 98 → s.buf.Holds (record.toNat + 12) (le32 n) →
              s.buf.FirstUnknown record.toNat (16 + n.toNat) x → stops (.pktSer record dst cap)))) ∧
    ∀ src len record cap : Word, src.toNat + len.toNat ≤ s.cfg.bufBytes →
      record.toNat + cap.toNat ≤ s.cfg.bufBytes → Apart src.toNat len.toNat record.toNat cap.toNat → 3 ≤ len.toNat →
      (s.buf.FirstUnknown (src.toNat + 2) 1 x → stops (.pktParse src len record cap)) ∧
      ∀ (t : Byte) (k : Kind), s.buf.lookup (src.toNat + 2) = some t → sendKind s.cfg (classify s.cfg t) = some k →
        (k = .var → s.buf.FirstUnknown src.toNat 2 x → stops (.pktParse src len record cap)) ∧
        ∀ w : Half, (k = .var → 2 ≤ w.toNat ∧ s.buf.Holds src.toNat (le16 w)) →
          4 + payloadLen k (2 * w.toNat - 4) ≤ len.toNat →
          s.buf.FirstUnknown (src.toNat + 3) (1 + payloadLen k (2 * w.toNat - 4)) x →
          stops (.pktParse src len record cap)

/-! Host agents. -/

/-- 60_exceptions.md rule R327 and 20_memory.md rules R71 and R72: which host accesses have no step, and which is the
model fault. That an access without a step is a refusal by name, and that the first Unknown byte is the one reported,
are the model's choices (log entries 10 and 7). -/
def Obligations.HostAccessesThatStop : Prop :=
  ∀ (s : State) (p : Nat) (rest : List AgentStep) (off width : Nat) (v : Word), p < s.ports.length →
    ((width ≠ 4 ∨ off % 4 ≠ 0) →
      (s.agenda = .host p (.regRead off width) :: rest → step s = .refused (.registerAccess off width)) ∧
      (s.agenda = .host p (.regWrite off width v) :: rest → step s = .refused (.registerAccess off width))) ∧
    (s.cfg.bufBytes < off + width →
      (s.agenda = .host p (.bufRead off width) :: rest → step s = .refused (.bufferAccess off width)) ∧
      (s.agenda = .host p (.bufWrite off width v) :: rest → step s = .refused (.bufferAccess off width))) ∧
    ((width = 1 ∨ width = 2 ∨ width = 4) → off + width ≤ s.cfg.bufBytes →
      ∀ k, k < width → s.buf.lookup (off + k) = none → (∀ j, j < k → s.buf.lookup (off + j) ≠ none) →
        s.agenda = .host p (.bufRead off width) :: rest → step s = .fault (.unknownRead (off + k)))

/-- Rules R33 and R34: a CMD write latches the command and the ARG registers while PENDING is 0, and only sets OVERRUN
while it is 1. A read of CMD returns 0. -/
def Obligations.CmdWriteLatchesOrOverruns : Prop :=
  ∀ (s : State) (q p : Nat) (rest : List AgentStep) (pt : Port) (w : Word),
    q < s.ports.length → p < 16 → s.ports[p]? = some pt →
    (s.agenda = .host q (.regWrite (0x40 * p) 4 w) :: rest →
      step s = .next { s with
        agenda := rest
        ports := s.ports.set p
          (if pt.pending then { pt with overrun := true }
            else { pt with latch := ⟨w, pt.arg0, pt.arg1, pt.arg2, pt.arg3⟩, pending := true }) }) ∧
    (s.agenda = .host q (.regRead (0x40 * p) 4) :: rest →
      step s = .next { s with agenda := rest, hostReads := s.hostReads ++ [(q, 0)] })

/-- Rules R35 and R37: what a read of STATUS, of RES0 and of RES1 shows, and that a write to STATUS clears OVERRUN by
bit 9 and does nothing else; and the numbers of 60_exceptions.md rule R320's table. -/
def Obligations.StatusRegisterFields : Prop :=
  [StatusCode.ok, .illegalCommand, .badAddress, .overlap, .badChannel, .doubleEsc, .invalidEsc, .trailingEsc,
    .notEnoughCapacity, .rxOverflow, .unexpectedEof, .unrecognizedPacketId, .unrecognizedPort,
    .unrecognizedStreamUpdateAction, .invalidBitPattern, .notSendable, .invalidField, .rosterFull].map statusNumber =
    [0x00, 0x01, 0x02, 0x03, 0x04, 0x10, 0x11, 0x12, 0x13, 0x14, 0x20, 0x21, 0x22, 0x23, 0x24, 0x25, 0x26, 0x30] ∧
  ∀ (s : State) (q p : Nat) (rest : List AgentStep) (pt : Port) (v : Word),
    q < s.ports.length → p < 16 → s.ports[p]? = some pt →
    (s.agenda = .host q (.regRead (0x40 * p + 0x18) 4) :: rest →
      step s = .next { s with agenda := rest, hostReads := s.hostReads ++ [(q, pt.res0)] }) ∧
    (s.agenda = .host q (.regRead (0x40 * p + 0x1C) 4) :: rest →
      step s = .next { s with agenda := rest, hostReads := s.hostReads ++ [(q, pt.res1)] }) ∧
    (s.agenda = .host q (.regRead (0x40 * p + 4) 4) :: rest →
      ∃ w : Word, step s = .next { s with agenda := rest, hostReads := s.hostReads ++ [(q, w)] } ∧
        w.extractLsb' 0 8 = statusNumber pt.code ∧ w.getLsbD 8 = pt.pending ∧ w.getLsbD 9 = pt.overrun ∧
        w.extractLsb' 10 22 = 0) ∧
    (s.agenda = .host q (.regWrite (0x40 * p + 4) 4 v) :: rest →
      step s = .next { s with
        agenda := rest
        ports := s.ports.set p { pt with overrun := pt.overrun && !v.getLsbD 9 } })

/-- Rule R32: a host write to an ARG register stores all 32 bits, there and nowhere else, and a read returns them. -/
def Obligations.ArgRegistersHoldWhatTheHostWrites : Prop :=
  ∀ (s : State) (q p k : Nat) (rest : List AgentStep) (pt : Port) (v : Word),
    q < s.ports.length → p < 16 → k < 4 → s.ports[p]? = some pt →
    s.agenda = .host q (.regWrite (0x40 * p + 8 + 4 * k) 4 v) :: rest →
    ∃ t, step s = .next t ∧
      t = { s with
        agenda := rest
        ports := s.ports.set p { pt with
          arg0 := if k = 0 then v else pt.arg0
          arg1 := if k = 1 then v else pt.arg1
          arg2 := if k = 2 then v else pt.arg2
          arg3 := if k = 3 then v else pt.arg3 } } ∧
      readReg t (0x40 * p + 8 + 4 * k) = v

/-- Rules R45 and R46: a host write to RXBASE or RXCAP stores the value and clears RXLEN and DROPPING; the group's four
registers read as their fields. -/
def Obligations.RxRegistersStoreAndClear : Prop :=
  ∀ (s : State) (q c : Nat) (rest : List AgentStep) (rc : RxChannel) (v : Word),
    q < s.ports.length → c < 16 → s.rx[c]? = some rc →
    (s.agenda = .host q (.regWrite (0x500 + 0x10 * c) 4 v) :: rest →
      step s = .next { s with agenda := rest, rx := s.rx.set c ⟨v, rc.cap, 0, false⟩ }) ∧
    (s.agenda = .host q (.regWrite (0x504 + 0x10 * c) 4 v) :: rest →
      step s = .next { s with agenda := rest, rx := s.rx.set c ⟨rc.base, v, 0, false⟩ }) ∧
    readReg s (0x500 + 0x10 * c) = rc.base ∧ readReg s (0x504 + 0x10 * c) = rc.cap ∧
    readReg s (0x508 + 0x10 * c) = rc.len ∧ (readReg s (0x50C + 0x10 * c)).toNat = rc.dropping.toNat

/-- Rules R37 and R53: an aligned write anywhere but at CMD, STATUS and the ARG registers of a port the block has, and
at RXBASE and RXCAP of a channel it has, is ignored; the reserved offsets read 0; and every aligned read in the
register space hands `readReg` of its offset to the host and changes nothing else (20_memory.md rule R86). -/
def Obligations.ReadOnlyAndReservedRegisters : Prop :=
  (∀ (s : State) (q off : Nat) (rest : List AgentStep) (v : Word),
    q < s.ports.length → off % 4 = 0 → off < 0x4000 →
    ¬ (off < 0x400 ∧ off / 0x40 < s.ports.length ∧ off % 0x40 < 0x18) →
    ¬ (0x500 ≤ off ∧ off < 0x600 ∧ (off - 0x500) / 0x10 < s.rx.length ∧ off % 0x10 < 8) →
    s.agenda = .host q (.regWrite off 4 v) :: rest → step s = .next { s with agenda := rest }) ∧
  (∀ (s : State) (off : Nat), off % 4 = 0 → off < 0x4000 →
    ((off < 0x400 ∧ (s.ports.length ≤ off / 0x40 ∨ 0x20 ≤ off % 0x40)) ∨ (0x428 ≤ off ∧ off < 0x500) ∨
      (0x500 ≤ off ∧ off < 0x600 ∧ s.rx.length ≤ (off - 0x500) / 0x10) ∨ (0x600 ≤ off ∧ off < 0x800) ∨
      (0x800 ≤ off ∧ s.roster.length ≤ (off - 0x800) / 8)) →
    readReg s off = 0) ∧
  ∀ (s : State) (q off : Nat) (rest : List AgentStep), q < s.ports.length → off % 4 = 0 → off < 0x4000 →
    s.agenda = .host q (.regRead off 4) :: rest →
    step s = .next { s with agenda := rest, hostReads := s.hostReads ++ [(q, readReg s off)] }

/-- Rules R38, R39, R40, R41, R43 and R47: what the global registers and the roster view show, and that a host write
to one of them is ignored. -/
def Obligations.GlobalRegistersShowTheState : Prop :=
  ∀ s : State, s.Inv →
    (readReg s 0x400).toNat =
      s.cfg.ports + 2 ^ 8 * s.cfg.rxChannels + 2 ^ 16 * s.cfg.rosterCap + 2 ^ 24 * s.cfg.vendorLo.toNat ∧
    (readReg s 0x404).toNat = s.cfg.bufBytes % 2 ^ 32 ∧
    (readReg s 0x408).toNat = s.subscribed.toNat + 2 ^ 8 * s.roster.length ∧
    (readReg s 0x40C).toNat = min s.upQ.length 65535 + 2 ^ 16 * min s.downQ.length 65535 ∧
    readReg s 0x410 = s.counters.frameErr ∧ readReg s 0x414 = s.counters.parseErr ∧
    readReg s 0x418 = s.counters.routeDrop ∧ readReg s 0x41C = s.counters.rosterReject ∧
    readReg s 0x420 = s.counters.rxOverflow ∧ readReg s 0x424 = s.counters.framesOk ∧
    (∀ i u, s.roster[i]? = some u →
      (readReg s (0x800 + 8 * i)).toNat =
        u.b0.toNat + 2 ^ 8 * u.b1.toNat + 2 ^ 16 * u.b2.toNat + 2 ^ 24 * u.b3.toNat ∧
      (readReg s (0x804 + 8 * i)).toNat = u.b4.toNat + 2 ^ 8 * u.b5.toNat) ∧
    (∀ i, s.roster.length ≤ i → readReg s (0x800 + 8 * i) = 0 ∧ readReg s (0x804 + 8 * i) = 0) ∧
    ∀ (q off : Nat) (rest : List AgentStep) (v : Word), q < s.ports.length → off % 4 = 0 →
      ((0x400 ≤ off ∧ off < 0x428) ∨ (0x800 ≤ off ∧ off < 0x4000)) →
      s.agenda = .host q (.regWrite off 4 v) :: rest → step s = .next { s with agenda := rest }

/-- Rules R71 and R84: a host write to BUF stores the value's low bytes, least significant byte at the lowest offset,
and nothing else changes; a read of the same width then returns them. -/
def Obligations.HostBufWriteIsLittleEndian : Prop :=
  ∀ (s : State) (q off width : Nat) (rest : List AgentStep) (v : Word),
    q < s.ports.length → (width = 1 ∨ width = 2 ∨ width = 4) → off + width ≤ s.cfg.bufBytes →
    s.agenda = .host q (.bufWrite off width v) :: rest →
    ∃ t, step s = .next t ∧ t = { s with agenda := rest, buf := t.buf } ∧
      (∀ j, j < width → t.buf.lookup (off + j) = some (v.extractLsb' (8 * j) 8)) ∧
      (∀ x, x < off ∨ off + width ≤ x → t.buf.lookup x = s.buf.lookup x) ∧
      agentStep (.host q (.bufRead off width)) t =
        .next { t with hostReads := t.hostReads ++ [(q, BitVec.ofNat 32 (v.toNat % 2 ^ (8 * width)))] }

/-- Rule R44: a consumer's step removes the head of its queue and hands it over, and changes nothing else. Of an empty
queue it takes nothing; that it is then a step that changes nothing of the block is the model's choice (log entry 8). -/
def Obligations.ConsumersTakeTheHead : Prop :=
  (∀ (s : State) (rest : List AgentStep),
    (s.agenda = .upstream :: rest → s.upQ = [] → step s = .next { s with agenda := rest }) ∧
    (s.agenda = .downstream :: rest → s.downQ = [] → step s = .next { s with agenda := rest })) ∧
  (∀ (s : State) (rest : List AgentStep) (e : UpEntry) (q : List UpEntry),
    s.agenda = .upstream :: rest → s.upQ = e :: q →
    step s = .next { s with agenda := rest, upQ := q, upOut := s.upOut ++ [e] }) ∧
  ∀ (s : State) (rest : List AgentStep) (e : DownEntry) (q : List DownEntry),
    s.agenda = .downstream :: rest → s.downQ = e :: q →
    step s = .next { s with agenda := rest, downQ := q, downOut := s.downOut ++ [e] }

/-- Rules R110 and R111: a command statement on a port with nothing pending makes five register writes, which leave
exactly its opcode and operands latched and pending there, whole, the missing operands 0, and change nothing else; its
`wait` comes next, reads STATUS, and goes on exactly when PENDING read 0. (The program is the model's own field, log
entry 25.) -/
def Obligations.StatementWritesLatchTheCommand : Prop :=
  ∀ (s : State) (p : Nat) (rest : List ProgramStep) (ag : List AgentStep) (pt : Port),
    p < 16 → s.ports[p]? = some pt →
    (∀ (op : Byte) (args : List Word), pt.pending = false → s.program = asmCommand p op args ++ rest →
      s.agenda = List.replicate 5 .program ++ ag →
      RunsTo 5 s { s with
        agenda := ag
        program := .wait p :: rest
        ports := s.ports.set p { pt with
          arg0 := args.getD 0 0, arg1 := args.getD 1 0, arg2 := args.getD 2 0, arg3 := args.getD 3 0
          latch := ⟨op.setWidth 32, args.getD 0 0, args.getD 1 0, args.getD 2 0, args.getD 3 0⟩
          pending := true } }) ∧
    (s.program = .wait p :: rest → s.agenda = .program :: ag →
      step s = .next { s with
        agenda := ag
        program := if pt.pending then .wait p :: rest else rest
        hostReads := s.hostReads ++ [(p, readReg s (0x40 * p + 4))] })

/-! SLIP framing (40_slip.md). -/

/-- Rules R148 (which the spec marks as derived from rules R142 and R146) and R146: END is sent as DB DC, ESC as DB DD
and every other byte as itself; the encoder's output ends with its only END, and decoding it without that END gives
the data back; its length, the capacity SLIP.ENC needs, is the data's length, plus one for each 0xC0 or 0xDB in it,
plus one. -/
def Obligations.SlipRoundTripAndLength : Prop :=
  ∀ d : List Byte,
    (∃ body, slipEncode d = body ++ [0xC0#8] ∧ 0xC0#8 ∉ body ∧ slipDecode body = .ok d) ∧
    (slipEncode d).length = d.length + d.count 0xC0#8 + d.count 0xDB#8 + 1 ∧
    d.length + 1 ≤ (slipEncode d).length ∧ (slipEncode d).length ≤ 2 * d.length + 1 ∧
    slipEncode [] = [0xC0#8] ∧ slipEncode (0xC0#8 :: d) = 0xDB#8 :: 0xDC#8 :: slipEncode d ∧
    slipEncode (0xDB#8 :: d) = 0xDB#8 :: 0xDD#8 :: slipEncode d ∧
    ∀ c : Byte, c ≠ 0xC0#8 → c ≠ 0xDB#8 → slipEncode (c :: d) = c :: slipEncode d

/-- Rule R142: a decode error reports the ESC that begins the failed escape, and that escape fails as its kind says;
the part before it decodes. An output is never longer than the body; DB DC decodes to END, DB DD to ESC, and any byte
but ESC, END included, to itself. After a part that decodes, an ESC at the end, an ESC ESC, and an ESC with any byte but
ESC, ESC_END and ESC_ESC do fail, whatever follows. -/
def Obligations.SlipDecodeReportsTheFirstFailure : Prop :=
  ∀ s : List Byte,
    (∀ out, slipDecode s = .ok out → out.length ≤ s.length ∧
      slipDecode (0xDB#8 :: 0xDC#8 :: s) = .ok (0xC0#8 :: out) ∧
      slipDecode (0xDB#8 :: 0xDD#8 :: s) = .ok (0xDB#8 :: out) ∧
      (∀ c : Byte, c ≠ 0xDB#8 → slipDecode (c :: s) = .ok (c :: out)) ∧
      slipDecode (s ++ [0xDB#8]) = .error (.trailingEsc, s.length) ∧
      ∀ rest : List Byte,
        slipDecode (s ++ 0xDB#8 :: 0xDB#8 :: rest) = .error (.doubleEsc, s.length) ∧
        ∀ c : Byte, c ≠ 0xDB#8 → c ≠ 0xDC#8 → c ≠ 0xDD#8 →
          slipDecode (s ++ 0xDB#8 :: c :: rest) = .error (.invalidEsc, s.length)) ∧
    ∀ kind k, slipDecode s = .error (kind, k) →
      s[k]? = some 0xDB#8 ∧ (∃ out, slipDecode (s.take k) = .ok out) ∧
      match kind with
      | .trailingEsc => k + 1 = s.length
      | .doubleEsc => s[k + 1]? = some 0xDB#8
      | .invalidEsc => ∃ c, s[k + 1]? = some c ∧ c ≠ 0xDB#8 ∧ c ≠ 0xDC#8 ∧ c ≠ 0xDD#8

/-- Rules R146 and R147: SLIP.ENC with enough capacity writes the encoding and nothing else; without it, it makes the
output range Unknown and reports the capacity that would have sufficed. -/
def Obligations.SlipEncEncodesOrLacksCapacity : Prop :=
  ∀ (s : State) (src len dst cap : Word) (data : List Byte),
    src.toNat + len.toNat ≤ s.cfg.bufBytes → dst.toNat + cap.toNat ≤ s.cfg.bufBytes →
    Apart src.toNat len.toNat dst.toNat cap.toNat →
    data.length = len.toNat → s.buf.Holds src.toNat data →
    ∃ t, exec (.slipEnc src len dst cap) s = .next t ∧ t = { s with ports := t.ports, buf := t.buf } ∧
      if (slipEncode data).length ≤ cap.toNat then
        s.Completes t .ok (BitVec.ofNat 32 (slipEncode data).length) 0 ∧
          s.buf.Stores t.buf dst.toNat (slipEncode data)
      else
        s.Completes t .notEnoughCapacity (BitVec.ofNat 32 (min (slipEncode data).length 0xFFFFFFFF)) 0 ∧
          s.buf.Forgets t.buf dst.toNat cap.toNat

/-- Rules R143 and R144: SLIP.DEC writes the decoded body in place, the cells after it keeping their bytes; on a decode
error it makes the body Unknown, counts CNT_FRAME_ERR and reports the index of the ESC. -/
def Obligations.SlipDecDecodesInPlace : Prop :=
  ∀ (s : State) (off len : Word) (body : List Byte),
    off.toNat + len.toNat ≤ s.cfg.bufBytes → body.length = len.toNat → s.buf.Holds off.toNat body →
    match slipDecode body with
    | .ok out =>
      ∃ t, exec (.slipDec off len) s = .next t ∧ s.Completes t .ok (BitVec.ofNat 32 out.length) 0 ∧
        s.buf.Stores t.buf off.toNat out ∧ t = { s with ports := t.ports, buf := t.buf }
    | .error (kind, k) =>
      ∃ t, exec (.slipDec off len) s = .next t ∧
        s.Completes t (match kind with
          | .doubleEsc => .doubleEsc
          | .invalidEsc => .invalidEsc
          | .trailingEsc => .trailingEsc) (BitVec.ofNat 32 k) 0 ∧
        s.buf.Forgets t.buf off.toNat len.toNat ∧
        t = { s with
          ports := t.ports, buf := t.buf
          counters := { s.counters with frameErr := s.counters.frameErr + 1 } }

/-- Rules R151, R152 and R153: SLIP.RX of a byte other than END discards it while DROPPING, overflows when the area is
full, and stores it otherwise. -/
def Obligations.SlipRxOfADataByte : Prop :=
  ∀ (s : State) (byte : Byte) (ch : Word) (c : RxChannel),
    s.rx[ch.toNat]? = some c → c.base.toNat + c.cap.toNat ≤ s.cfg.bufBytes → byte ≠ 0xC0#8 →
    ∃ t, exec (.slipRx byte ch) s = .next t ∧
      if c.dropping then s.Completes t .ok 0 0 ∧ t = { s with ports := t.ports }
      else if c.len = c.cap then
        s.Completes t .rxOverflow c.cap 0 ∧
          t = { s with
            ports := t.ports
            rx := s.rx.set ch.toNat { c with dropping := true }
            counters := { s.counters with rxOverflow := s.counters.rxOverflow + 1 } }
      else
        s.Completes t .ok (c.len + 1) 0 ∧ s.buf.Stores t.buf (c.base.toNat + c.len.toNat) [byte] ∧
          t = { s with ports := t.ports, buf := t.buf, rx := s.rx.set ch.toNat { c with len := c.len + 1 } }

/-- Rules R154 and R155: SLIP.RX of END ends a dropped frame; skips an empty one; and decodes a stored one in place and
counts CNT_FRAMES_OK, or, on a decode error, makes the stored bytes Unknown and counts CNT_FRAME_ERR. RXLEN is 0 after
each. -/
def Obligations.SlipRxOfEnd : Prop :=
  ∀ (s : State) (ch : Word) (c : RxChannel) (body : List Byte),
    s.rx[ch.toNat]? = some c → c.base.toNat + c.cap.toNat ≤ s.cfg.bufBytes →
    (c.dropping = false → body.length = c.len.toNat ∧ s.buf.Holds c.base.toNat body) →
    ∃ t, exec (.slipRx 0xC0#8 ch) s = .next t ∧
      if c.dropping then
        s.Completes t .ok 0 3 ∧
          t = { s with ports := t.ports, rx := s.rx.set ch.toNat { c with len := 0, dropping := false } }
      else if c.len = 0 then s.Completes t .ok 0 2 ∧ t = { s with ports := t.ports }
      else
        match slipDecode body with
        | .ok out =>
          s.Completes t .ok (BitVec.ofNat 32 out.length) 1 ∧ s.buf.Stores t.buf c.base.toNat out ∧
            t = { s with
              ports := t.ports, buf := t.buf, rx := s.rx.set ch.toNat { c with len := 0 }
              counters := { s.counters with framesOk := s.counters.framesOk + 1 } }
        | .error (kind, k) =>
          s.Completes t (match kind with
            | .doubleEsc => .doubleEsc
            | .invalidEsc => .invalidEsc
            | .trailingEsc => .trailingEsc) (BitVec.ofNat 32 k) 0 ∧
          s.buf.Forgets t.buf c.base.toNat c.len.toNat ∧
          t = { s with
            ports := t.ports, buf := t.buf, rx := s.rx.set ch.toNat { c with len := 0 }
            counters := { s.counters with frameErr := s.counters.frameErr + 1 } }

/-- Rule R156, which the spec marks as derived from rules R145 and R153 to R155: whatever END does on a channel, the
channel is empty and not dropping afterwards, so the bytes after it begin a new frame. -/
def Obligations.EndResynchronisesTheChannel : Prop :=
  ∀ (s t : State) (ch : Word) (c : RxChannel),
    s.rx[ch.toNat]? = some c → c.base.toNat + c.cap.toNat ≤ s.cfg.bufBytes → exec (.slipRx 0xC0#8 ch) s = .next t →
    t.rx = s.rx.set ch.toNat { c with len := 0, dropping := false }

/-- Rule R157, and the channel checks of rule R151: SLIP.RXCLR clears its channel and nothing else; a channel the block
does not have is BadChannel, and a deframer area outside BUF is BadAddress with 0x100 plus the channel. -/
def Obligations.SlipRxclrAndChannelChecks : Prop :=
  ∀ (s : State) (byte : Byte) (ch : Word),
    (∀ c, s.rx[ch.toNat]? = some c →
      (∃ t, exec (.slipRxclr ch) s = .next t ∧ s.Completes t .ok 0 0 ∧
        t = { s with ports := t.ports, rx := s.rx.set ch.toNat { c with len := 0, dropping := false } }) ∧
      (s.cfg.bufBytes < c.base.toNat + c.cap.toNat →
        s.CompletesOnly (.slipRx byte ch) .badAddress (BitVec.ofNat 32 (0x100 + ch.toNat)) 0)) ∧
    (s.rx.length ≤ ch.toNat →
      s.CompletesOnly (.slipRxclr ch) .badChannel ch 0 ∧ s.CompletesOnly (.slipRx byte ch) .badChannel ch 0)

/-! Operand ranges (20_memory.md). -/

/-- Rule R73: an operand range not within BUF ends the command with BadAddress and the index of the ARG register that
holds its offset, and nothing else changes; the lower index first. PKT.SER's record here is its first 8 bytes, and
SLIP.RX's area stands in SlipRxclrAndChannelChecks. -/
def Obligations.RangeOutsideBufIsBadAddress : Prop :=
  ∀ (s : State) (a b c d : Word) (u : Uuid),
    (s.cfg.bufBytes < a.toNat + b.toNat →
      s.CompletesOnly (.slipDec a b) .badAddress 0 0 ∧ s.CompletesOnly (.slipEnc a b c d) .badAddress 0 0 ∧
      s.CompletesOnly (.pktParse a b c d) .badAddress 0 0 ∧
      s.CompletesOnly (.hubRouteout u a b) .badAddress 2 0 ∧ s.CompletesOnly (.hubRoutein u a b) .badAddress 2 0) ∧
    (a.toNat + b.toNat ≤ s.cfg.bufBytes → s.cfg.bufBytes < c.toNat + d.toNat →
      s.CompletesOnly (.slipEnc a b c d) .badAddress 2 0 ∧ s.CompletesOnly (.pktParse a b c d) .badAddress 2 0) ∧
    (s.cfg.bufBytes < a.toNat + 8 → s.CompletesOnly (.pktSer a b c) .badAddress 0 0) ∧
    (s.cfg.bufBytes < a.toNat + 56 → s.CompletesOnly (.motPack a b) .badAddress 0 0) ∧
    (a.toNat + 56 ≤ s.cfg.bufBytes → s.cfg.bufBytes < b.toNat + 16 →
      s.CompletesOnly (.motPack a b) .badAddress 1 0) ∧
    (s.cfg.bufBytes < a.toNat + 16 → s.CompletesOnly (.motUnpack a b) .badAddress 0 0) ∧
    (a.toNat + 16 ≤ s.cfg.bufBytes → s.cfg.bufBytes < b.toNat + 56 →
      s.CompletesOnly (.motUnpack a b) .badAddress 1 0)

/-- Rule R74: overlapping source and destination ranges end SLIP.ENC, PKT.PARSE, MOT.PACK and MOT.UNPACK with Overlap,
and nothing else changes. (PKT.SER’s stands in PktSerErrors.) -/
def Obligations.OverlappingRangesAreRefused : Prop :=
  ∀ (s : State) (a b c d : Word),
    (a.toNat + b.toNat ≤ s.cfg.bufBytes → c.toNat + d.toNat ≤ s.cfg.bufBytes →
      ¬ Apart a.toNat b.toNat c.toNat d.toNat →
      s.CompletesOnly (.slipEnc a b c d) .overlap 0 0 ∧ s.CompletesOnly (.pktParse a b c d) .overlap 0 0) ∧
    (a.toNat + 56 ≤ s.cfg.bufBytes → c.toNat + 16 ≤ s.cfg.bufBytes → ¬ Apart a.toNat 56 c.toNat 16 →
      s.CompletesOnly (.motPack a c) .overlap 0 0) ∧
    (a.toNat + 16 ≤ s.cfg.bufBytes → c.toNat + 56 ≤ s.cfg.bufBytes → ¬ Apart a.toNat 16 c.toNat 56 →
      s.CompletesOnly (.motUnpack a c) .overlap 0 0)

/-! Packets (41_packet.md). -/

/-- Rules R108, R185 and R190, in every configuration that keeps rule R9's constraints: the class of every type byte,
for both values of VENDOR_LO; that valid bytes have classes of their own; which bytes are sendable, and with which
kind; and what TYPE.CLASS answers for each class, changing nothing else and counting nothing. -/
def Obligations.TypeRegistryAndTypeClass : Prop :=
  (∀ (c : Config) (b : Byte), c.wf = true →
    (b.toNat ≤ 0x13 → classify c b = .catalog b) ∧
    (b.toNat = 0x14 → classify c b = .endMark) ∧
    (0x15 ≤ b.toNat → b.toNat ≤ 0x7F → classify c b = .invalid) ∧
    (b.toNat = 0x80 → c.vendorLo = 0x81 → classify c b = .vendorStart) ∧
    (b.toNat = 0x80 → c.vendorLo = 0x80 → classify c b = .vendor b) ∧
    (0x81 ≤ b.toNat → b.toNat ≤ 0xFE → classify c b = .vendor b) ∧
    (b.toNat = 0xFF → classify c b = .vendorEnd) ∧
    (∀ b', classify c b = classify c b' → classify c b ≠ .invalid → b = b') ∧
    sendKind c (classify c b) =
      if b.toNat ≤ 0x13 then c.catalog[b.toNat]?
      else if c.vendorLo.toNat ≤ b.toNat ∧ b.toNat ≤ 0xFE then some .vend
      else none) ∧
  ∀ (s : State) (b : Byte), s.cfg.wf = true →
    match classify s.cfg b with
    | .invalid => s.CompletesOnly (.typeClass b) .unrecognizedPacketId (BitVec.ofNat 32 b.toNat) 0
    | .endMark => s.CompletesOnly (.typeClass b) .ok 2 0
    | .vendorStart => s.CompletesOnly (.typeClass b) .ok 3 0
    | .vendorEnd => s.CompletesOnly (.typeClass b) .ok 5 0
    | .vendor _ => s.CompletesOnly (.typeClass b) .ok 4 (BitVec.ofNat 32 (7 + 100 * 256))
    | .catalog x =>
      ∃ k, s.cfg.catalog[x.toNat]? = some k ∧
        s.CompletesOnly (.typeClass b) .ok 1
          (match k with
            | .obj => BitVec.ofNat 32 (1 + 518 * 256)
            | .mrk => BitVec.ofNat 32 (2 + 96 * 256)
            | .acc => BitVec.ofNat 32 (3 + 16 * 256)
            | .ver => BitVec.ofNat 32 (4 + 12 * 256)
            | .fix n => BitVec.ofNat 32 (5 + n * 256)
            | .var => 6
            | .vend => BitVec.ofNat 32 (7 + 100 * 256))

/-- Rule R200: PKT.SER of one of the four described kinds writes the header and the packed payload, whose bytes stand
offset by offset where the kind's wire layout puts them (rules R191 to R194), and nothing else changes. -/
def Obligations.PktSerOfADescribedKind : Prop :=
  ∀ (s : State) (record dst cap : Word) (k : Kind) (r : List Byte),
    k.described = true → sendKind s.cfg (classify s.cfg (byteAt r 0)) = some k →
    r.length = hostSize k 0 → s.buf.Holds record.toNat r →
    record.toNat + hostSize k 0 ≤ s.cfg.bufBytes → dst.toNat + cap.toNat ≤ s.cfg.bufBytes →
    Apart record.toNat (hostSize k 0) dst.toNat cap.toNat → 4 + payloadLen k 0 ≤ cap.toNat →
    ∃ t, exec (.pktSer record dst cap) s = .next t ∧
      s.Completes t .ok (BitVec.ofNat 32 (4 + payloadLen k 0)) (BitVec.ofNat 32 (payloadLen k 0)) ∧
      s.buf.Stores t.buf dst.toNat
        (le16 (BitVec.ofNat 16 ((payloadLen k 0 + 4) / 2)) ++ [byteAt r 0, byteAt r 4] ++ packPayload k r) ∧
      WireLayout k r (packPayload k r) ∧
      t = { s with ports := t.ports, buf := t.buf }

/-- Rules R195, R196 and R200: PKT.SER of a vendor packet, whose data at index LEN and above is not read and goes out as
0; and of an opaque one, whose payload goes out unchanged. -/
def Obligations.PktSerOfVendorAndOpaqueKinds : Prop :=
  ∀ (s : State) (record dst cap : Word) (k : Kind) (r : List Byte) (n : Nat),
    sendKind s.cfg (classify s.cfg (byteAt r 0)) = some k → s.buf.Holds record.toNat r →
    dst.toNat + cap.toNat ≤ s.cfg.bufBytes →
    (k = .vend → r.length = 16 + n → n ≤ 98 → wordAt r 12 = BitVec.ofNat 32 n →
      record.toNat + 114 ≤ s.cfg.bufBytes → Apart record.toNat 114 dst.toNat cap.toNat → 104 ≤ cap.toNat →
      ∃ t, exec (.pktSer record dst cap) s = .next t ∧ s.Completes t .ok 104 100 ∧
        s.buf.Stores t.buf dst.toNat
          ([0x34, 0x00, byteAt r 0, byteAt r 4, byteAt r 8, BitVec.ofNat 8 n] ++ r.drop 16 ++
            List.replicate (98 - n) 0) ∧
        t = { s with ports := t.ports, buf := t.buf }) ∧
    ((k = .fix n ∨ k = .var) → r.length = 12 + n → n % 2 = 0 → n ≤ 131066 → wordAt r 8 = BitVec.ofNat 32 n →
      record.toNat + (12 + n) ≤ s.cfg.bufBytes → Apart record.toNat (12 + n) dst.toNat cap.toNat →
      4 + n ≤ cap.toNat →
      ∃ t, exec (.pktSer record dst cap) s = .next t ∧
        s.Completes t .ok (BitVec.ofNat 32 (4 + n)) (BitVec.ofNat 32 n) ∧
        s.buf.Stores t.buf dst.toNat
          (le16 (BitVec.ofNat 16 ((n + 4) / 2)) ++ [byteAt r 0, byteAt r 4] ++ r.drop 12) ∧
        t = { s with ports := t.ports, buf := t.buf })

/-- Rules R200 and R201: PKT.SER's errors, in the order it checks them: the type, the record's and the output's range,
Overlap, the LEN word, the capacity. None changes anything but the port's bank. -/
def Obligations.PktSerErrors : Prop :=
  ∀ (s : State) (record dst cap : Word) (h : List Byte),
    record.toNat + 8 ≤ s.cfg.bufBytes → s.buf.Holds record.toNat h → 8 ≤ h.length →
    let fails := s.CompletesOnly (.pktSer record dst cap)
    (classify s.cfg (byteAt h 0) = .invalid →
      fails .unrecognizedPacketId (BitVec.ofNat 32 (byteAt h 0).toNat) 0) ∧
    ((classify s.cfg (byteAt h 0) = .endMark ∨ classify s.cfg (byteAt h 0) = .vendorStart ∨
        classify s.cfg (byteAt h 0) = .vendorEnd) →
      fails .notSendable (BitVec.ofNat 32 (byteAt h 0).toNat) 0) ∧
    (∀ k, sendKind s.cfg (classify s.cfg (byteAt h 0)) = some k → k ≠ .vend → k.described = false →
      s.cfg.bufBytes < record.toNat + 12 → fails .badAddress 0 0) ∧
    ∀ k len, sendKind s.cfg (classify s.cfg (byteAt h 0)) = some k →
      (k ≠ .vend → k.described = false → 12 ≤ h.length ∧ (wordAt h 8).toNat = len) →
      (s.cfg.bufBytes < record.toNat + hostSize k len → fails .badAddress 0 0) ∧
      (record.toNat + hostSize k len ≤ s.cfg.bufBytes →
        (s.cfg.bufBytes < dst.toNat + cap.toNat → fails .badAddress 1 0) ∧
        (dst.toNat + cap.toNat ≤ s.cfg.bufBytes →
          (¬ Apart record.toNat (hostSize k len) dst.toNat cap.toNat → fails .overlap 0 0) ∧
          (Apart record.toNat (hostSize k len) dst.toNat cap.toNat →
            (k = .vend → 16 ≤ h.length →
              (98 < (wordAt h 12).toNat → fails .invalidField 12 0) ∧
              ((wordAt h 12).toNat ≤ 98 → cap.toNat < 104 → fails .notEnoughCapacity 104 0)) ∧
            (∀ n, k = .fix n →
              (len ≠ n → fails .invalidField 8 0) ∧
              (len = n → cap.toNat < 4 + n → fails .notEnoughCapacity (BitVec.ofNat 32 (4 + n)) 0)) ∧
            (k = .var →
              (len % 2 = 1 ∨ 131066 < len → fails .invalidField 8 0) ∧
              (len % 2 = 0 → len ≤ 131066 → cap.toNat < 4 + len →
                fails .notEnoughCapacity (BitVec.ofNat 32 (4 + len)) 0)) ∧
            (k.described = true → cap.toNat < 4 + payloadLen k 0 →
              fails .notEnoughCapacity (BitVec.ofNat 32 (4 + payloadLen k 0)) 0))))

/-- Rule R205: PKT.PARSE of a packet of a described or vendor kind reads exactly its bytes, ignores the word-count
(rule R206) and whatever follows the packet, and writes the host record, whose words stand where the kind's layout
puts them (rules R191 to R195); nothing else changes. -/
def Obligations.PktParseOfDescribedAndVendorKinds : Prop :=
  ∀ (s : State) (src len record cap : Word) (t id : Byte) (k : Kind) (p : List Byte),
    src.toNat + len.toNat ≤ s.cfg.bufBytes → record.toNat + cap.toNat ≤ s.cfg.bufBytes →
    Apart src.toNat len.toNat record.toNat cap.toNat →
    sendKind s.cfg (classify s.cfg t) = some k → (k.described = true ∨ k = .vend) →
    p.length = payloadLen k 0 → 4 + p.length ≤ len.toNat → s.buf.Holds (src.toNat + 2) ([t, id] ++ p) →
    (k = .vend → (byteAt p 1).toNat ≤ 98) → hostSize k 0 ≤ cap.toNat →
    ∃ u, exec (.pktParse src len record cap) s = .next u ∧
      s.Completes u .ok (BitVec.ofNat 32 (4 + p.length)) (BitVec.ofNat 32 (hostSize k 0)) ∧
      s.buf.Stores u.buf record.toNat ([t, 0, 0, 0, id, 0, 0, 0] ++ unpackPayload k p) ∧
      RecordLayout k p ([t, 0, 0, 0, id, 0, 0, 0] ++ unpackPayload k p) ∧
      u = { s with ports := u.ports, buf := u.buf }

/-- Rules R196, R197 and R205: PKT.PARSE of a packet of an opaque kind ends as OPAQUE_VALIDATE's verdict says,
whatever the verdict; accepted, its payload is copied unchanged, or the record has no room. -/
def Obligations.PktParseOfAnOpaqueKind : Prop :=
  ∀ (s : State) (src len record cap : Word) (w : Half) (t id : Byte) (k : Kind) (p : List Byte),
    src.toNat + len.toNat ≤ s.cfg.bufBytes → record.toNat + cap.toNat ≤ s.cfg.bufBytes →
    Apart src.toNat len.toNat record.toNat cap.toNat →
    sendKind s.cfg (classify s.cfg t) = some k →
    (k = .fix p.length ∨ (k = .var ∧ 2 ≤ w.toNat ∧ p.length = 2 * w.toNat - 4)) →
    4 + p.length ≤ len.toNat → s.buf.Holds src.toNat (le16 w ++ [t, id] ++ p) →
    let counted : Counters := { s.counters with parseErr := s.counters.parseErr + 1 }
    ∃ u, exec (.pktParse src len record cap) s = .next u ∧
      match Config.opaqueValidate t p with
      | .accepted =>
        if 12 + p.length ≤ cap.toNat then
          s.Completes u .ok (BitVec.ofNat 32 (4 + p.length)) (BitVec.ofNat 32 (12 + p.length)) ∧
            s.buf.Stores u.buf record.toNat
              ([t, 0, 0, 0, id, 0, 0, 0] ++ le32 (BitVec.ofNat 32 p.length) ++ p) ∧
            u = { s with ports := u.ports, buf := u.buf }
        else
          s.Completes u .notEnoughCapacity (BitVec.ofNat 32 (12 + p.length)) 0 ∧ u = { s with ports := u.ports }
      | .unrecognizedPort =>
        s.Completes u .unrecognizedPort 0 0 ∧ u = { s with ports := u.ports, counters := counted }
      | .unrecognizedStreamUpdateAction b =>
        s.Completes u .unrecognizedStreamUpdateAction (BitVec.ofNat 32 b.toNat) 0 ∧
          u = { s with ports := u.ports, counters := counted }
      | .invalidBitPattern =>
        s.Completes u .invalidBitPattern 0 0 ∧ u = { s with ports := u.ports, counters := counted }

/-- Rules R205 to R207: PKT.PARSE's errors, in the order it checks them; the parse errors count CNT_PARSE_ERR and the
capacity error does not; nothing else changes. -/
def Obligations.PktParseErrors : Prop :=
  ∀ (s : State) (src len record cap : Word),
    src.toNat + len.toNat ≤ s.cfg.bufBytes → record.toNat + cap.toNat ≤ s.cfg.bufBytes →
    Apart src.toNat len.toNat record.toNat cap.toNat →
    let fails (code : StatusCode) (r0 : Word) : Prop :=
      ∃ u, exec (.pktParse src len record cap) s = .next u ∧ s.Completes u code r0 0 ∧
        u = { s with ports := u.ports, counters := { s.counters with parseErr := s.counters.parseErr + 1 } }
    (len.toNat < 3 → fails .unexpectedEof 0x100) ∧
    (3 ≤ len.toNat → ∀ t, s.buf.lookup (src.toNat + 2) = some t →
      (sendKind s.cfg (classify s.cfg t) = none → fails .unrecognizedPacketId (BitVec.ofNat 32 t.toNat)) ∧
      (sendKind s.cfg (classify s.cfg t) = some .var → ∀ w : Half, s.buf.Holds src.toNat (le16 w) →
        (w.toNat < 2 → fails .invalidBitPattern (BitVec.ofNat 32 w.toNat)) ∧
        (2 ≤ w.toNat → len.toNat < 2 * w.toNat → fails .unexpectedEof (BitVec.ofNat 32 t.toNat))) ∧
      (∀ k, sendKind s.cfg (classify s.cfg t) = some k → k ≠ .var →
        (len.toNat < 4 + payloadLen k 0 → fails .unexpectedEof (BitVec.ofNat 32 t.toNat)) ∧
        (4 + payloadLen k 0 ≤ len.toNat → ∀ id p, p.length = payloadLen k 0 →
          s.buf.Holds (src.toNat + 3) ([id] ++ p) →
          (k = .vend → 98 < (byteAt p 1).toNat →
            fails .invalidBitPattern (BitVec.ofNat 32 (byteAt p 1).toNat)) ∧
          ((k.described = true ∨ (k = .vend ∧ (byteAt p 1).toNat ≤ 98)) → cap.toNat < hostSize k 0 →
            s.CompletesOnly (.pktParse src len record cap) .notEnoughCapacity
              (BitVec.ofNat 32 (hostSize k 0)) 0))))

/-- Rule R198, which the spec marks as derived from rules R183, R189 and R191 to R196: unpacking a packed payload
gives a canonical host record's body back, for every kind. -/
def Obligations.PayloadRoundTrip : Prop :=
  ∀ (k : Kind) (r : List Byte) (n : Nat), n < 2 ^ 32 → r.length = hostSize k n → CanonicalRecord k r →
    unpackPayload k (packPayload k r) = r.drop 8

/-- Rule R208, which the spec marks as derived from rules R198, R200 and R205, for the described and vendor kinds:
PKT.SER of a canonical host record and then PKT.PARSE of its output writes the same host record, and RES0 is the
packet's length. -/
def Obligations.SerializeThenParseRestoresTheRecord : Prop :=
  ∀ (s : State) (record dst cap record' cap' : Word) (k : Kind) (r : List Byte),
    (k.described = true ∨ k = .vend) → sendKind s.cfg (classify s.cfg (byteAt r 0)) = some k →
    r.length = hostSize k 0 → CanonicalRecord k r → s.buf.Holds record.toNat r →
    record.toNat + hostSize k 0 ≤ s.cfg.bufBytes → dst.toNat + cap.toNat ≤ s.cfg.bufBytes →
    record'.toNat + cap'.toNat ≤ s.cfg.bufBytes →
    Apart record.toNat (hostSize k 0) dst.toNat cap.toNat → Apart dst.toNat cap.toNat record'.toNat cap'.toNat →
    4 + payloadLen k 0 ≤ cap.toNat → hostSize k 0 ≤ cap'.toNat →
    ∃ t u, exec (.pktSer record dst cap) s = .next t ∧
      exec (.pktParse dst (BitVec.ofNat 32 (4 + payloadLen k 0)) record' cap') t = .next u ∧
      u.buf.Holds record'.toNat r ∧
      t.Completes u .ok (BitVec.ofNat 32 (4 + payloadLen k 0)) (BitVec.ofNat 32 (hostSize k 0))

/-- Rules R180, R182 (marked as derived from rule R180) and R187: in a configuration that keeps rule R186's
constraints, every payload PKT.SER packs has its kind's length, which is even and at most 131066, and twice the
word-count is that length plus 4. -/
def Obligations.PayloadLengthsAndWordCount : Prop :=
  ∀ (c : Config) (b : Byte) (k : Kind) (n : Nat) (r : List Byte) (t id : Byte),
    c.wf = true → sendKind c (classify c b) = some k → r.length = hostSize k n → n % 2 = 0 → n ≤ 131066 →
    (∀ m, k = .fix m → n = m) → (k = .vend → (wordAt r 12).toNat ≤ 98) →
    (packPayload k r).length = payloadLen k n ∧ payloadLen k n % 2 = 0 ∧ payloadLen k n ≤ 131066 ∧
      2 * (halfAt (packetHeader (payloadLen k n) t id) 0).toNat = payloadLen k n + 4

/-- Rule R214, which the spec marks as derived from rule R189: a MotData record survives packing and unpacking, and
its host record too. -/
def Obligations.MotDataRoundTrip : Prop :=
  ∀ h : MotData, motUnpack (motPack h) 0 = h ∧ motOfRecord (motRecord h) 0 = h ∧ (motPack h).length = 16 ∧
    (motRecord h).length = 56

/-- Rules R188, R189, R212 and R213: MOT.PACK of a host record whose fourteen words are given stores the sixteen bytes
of rule R188's table; MOT.UNPACK of sixteen bytes stores the fourteen words of the host record, the unused bits of the
bytes dropped; and nothing else changes. -/
def Obligations.MotCommandsConvertTheRecord : Prop :=
  (∀ (s : State) (record dst : Word) (area cx cy avg mx rng rad d0 d1 d2 d3 asp vx vy : Word),
      record.toNat + 56 ≤ s.cfg.bufBytes → dst.toNat + 16 ≤ s.cfg.bufBytes → Apart record.toNat 56 dst.toNat 16 →
      s.buf.Holds record.toNat
        ([area, cx, cy, avg, mx, rng, rad, d0, d1, d2, d3, asp, vx, vy].flatMap le32) →
      ∃ t, exec (.motPack record dst) s = .next t ∧ s.Completes t .ok 16 0 ∧
        s.buf.Stores t.buf dst.toNat
          ([area.toNat, area.toNat / 256, cx.toNat, cx.toNat / 256 % 16, cy.toNat, cy.toNat / 256 % 16, avg.toNat, mx.toNat,
            rng.toNat % 16 * 16 + rad.toNat % 16, d0.toNat % 128, d1.toNat % 128, d2.toNat % 128, d3.toNat % 128,
            asp.toNat, vx.toNat, vy.toNat].map (BitVec.ofNat 8)) ∧
        t = { s with ports := t.ports, buf := t.buf }) ∧
  ∀ (s : State) (src record : Word) (b0 b1 b2 b3 b4 b5 b6 b7 b8 b9 b10 b11 b12 b13 b14 b15 : Byte),
    src.toNat + 16 ≤ s.cfg.bufBytes → record.toNat + 56 ≤ s.cfg.bufBytes → Apart src.toNat 16 record.toNat 56 →
    s.buf.Holds src.toNat [b0, b1, b2, b3, b4, b5, b6, b7, b8, b9, b10, b11, b12, b13, b14, b15] →
    ∃ t, exec (.motUnpack src record) s = .next t ∧ s.Completes t .ok 56 0 ∧
      s.buf.Stores t.buf record.toNat
        ([b0.toNat + 256 * b1.toNat, b2.toNat + 256 * (b3.toNat % 16), b4.toNat + 256 * (b5.toNat % 16), b6.toNat,
          b7.toNat, b8.toNat / 16, b8.toNat % 16, b9.toNat % 128, b10.toNat % 128, b11.toNat % 128, b12.toNat % 128,
          b13.toNat, b14.toNat, b15.toNat].flatMap fun n => le32 (BitVec.ofNat 32 n)) ∧
      t = { s with ports := t.ports, buf := t.buf }

/-- Rules R210, R216, R217 and R218 (marked as derived from rule R210): a packed marker pair is x plus 4096 times y,
unpacking takes it apart, and nothing but the port's bank changes; every pair survives packing and unpacking. -/
def Obligations.MarkerCommandsAndRoundTrip : Prop :=
  (∀ (s : State) (x y : BitVec 12) (v : BitVec 24),
    s.CompletesOnly (.mrkPack x y) .ok (BitVec.ofNat 32 (x.toNat + 4096 * y.toNat)) 0 ∧
    s.CompletesOnly (.mrkUnpack v) .ok (BitVec.ofNat 32 (v.toNat % 4096)) (BitVec.ofNat 32 (v.toNat / 4096))) ∧
  ∀ x y : BitVec 12, ∃ b0 b1 b2, mkPack x y = [b0, b1, b2] ∧ mkUnpack b0 b1 b2 = (x, y)

/-! Conversion (42_convert.md). -/

/-- Rules R250 to R253: each conversion command completes with its function's value, an int16 sign-extended to 32 bits
on the way to the wire, and changes nothing but the port's bank. -/
def Obligations.ConversionCommandsComplete : Prop :=
  ∀ (s : State) (x : Word) (r : Half),
    (-32768 ≤ accelToWire x ∧ accelToWire x ≤ 32767 ∧
      s.CompletesOnly (.convA2w x) .ok ((BitVec.ofInt 16 (accelToWire x)).signExtend 32) 0) ∧
    (-32768 ≤ gyroToWire x ∧ gyroToWire x ≤ 32767 ∧
      s.CompletesOnly (.convG2w x) .ok ((BitVec.ofInt 16 (gyroToWire x)).signExtend 32) 0) ∧
    s.CompletesOnly (.convW2a r) .ok (accelToHost r) 0 ∧
    s.CompletesOnly (.convW2g r) .ok (gyroToHost r) 0

/-- Rules R16 and R241: a nonzero rational number `num / den * 2^e` rounds to a nearest number of the format, to the
one with the even significand when two are equally near, the result being normalised; and to an infinity exactly from
half a unit above the greatest finite number on. (IEEE 754 itself is general knowledge, log entry 13.) -/
def Obligations.RoundingIsToNearestTiesToEven : Prop :=
  ∀ (f : FltFormat) (neg : Bool) (num den : Nat) (e : Int), (f = binary32 ∨ f = binary64) → 0 < num → 0 < den →
    let v : ℚ := num / den * 2 ^ e
    match roundTo f neg num den e with
    | .fin n q u => n = neg ∧ q < 2 ^ f.prec ∧ f.minExp ≤ u ∧ u ≤ f.maxExp ∧ (2 ^ (f.prec - 1) ≤ q ∨ u = f.minExp) ∧
      v < (2 ^ f.prec - 1 / 2) * 2 ^ f.maxExp ∧
      ∀ (q' : Nat) (u' : Int), q' < 2 ^ f.prec → f.minExp ≤ u' →
        |v - q * 2 ^ u| ≤ |v - q' * 2 ^ u'| ∧
        (|v - q * 2 ^ u| = |v - q' * 2 ^ u'| → (q' * 2 ^ u' : ℚ) ≠ q * 2 ^ u → q % 2 = 0)
    | .inf n => n = neg ∧ (2 ^ f.prec - 1 / 2 : ℚ) * 2 ^ f.maxExp ≤ v
    | .nan => False

/-- Rule R255, property 2, which the spec marks as derived from rule R242: the two encoding functions are monotone on
inputs that are not NaN, the infinities included. -/
def Obligations.ConversionsToTheWireAreMonotone : Prop :=
  ∀ x y : Word, (fromBits32 x).Le (fromBits32 y) → accelToWire x ≤ accelToWire y ∧ gyroToWire x ≤ gyroToWire y

/-- Rules R242, R254 and R255 (the last two marked as derived from the first): every NaN and both zeros encode as 0
and the infinities saturate; the worked examples of rules R250 to R253; sample 0 gives +0.0; the host functions are
odd (but for 0 and -32768, negating the sample flips the sign bit of the result) and strictly increasing; and below
saturation a round trip stays within one LSB, "up to the relative error of the binary64 constant G64 and the final
binary32 rounding", for which this statement allows 2^-24 + 2^-48, a number of its own. -/
def Obligations.ConversionOfSpecialValuesAndSigns : Prop :=
  (∀ x : Word, x.extractLsb' 23 8 = 0xFF → x.extractLsb' 0 23 ≠ 0 → accelToWire x = 0 ∧ gyroToWire x = 0) ∧
  (accelToWire 0x00000000 = 0 ∧ gyroToWire 0x00000000 = 0 ∧ accelToWire 0x80000000 = 0 ∧ gyroToWire 0x80000000 = 0) ∧
  (accelToWire 0x7F800000 = 32767 ∧ gyroToWire 0x7F800000 = 32767 ∧
    accelToWire 0xFF800000 = -32768 ∧ gyroToWire 0xFF800000 = -32768) ∧
  (accelToWire 0x411CE80A = 2048 ∧ accelToHost 2048 = 0x411CE80A ∧ accelToHost 0x8000 = 0xC31CE80A ∧
    gyroToWire 0x3F800000 = 939 ∧ gyroToHost 939 = 0x3F7FD29C ∧ gyroToHost 0x8000 = 0xC20B7D78) ∧
  (accelToHost 0 = 0x00000000 ∧ gyroToHost 0 = 0x00000000) ∧
  (∀ r : Half, r ≠ 0 → r ≠ 0x8000 →
    accelToHost (-r) = accelToHost r ^^^ 0x80000000 ∧ gyroToHost (-r) = gyroToHost r ^^^ 0x80000000) ∧
  (∀ r r' : Half, r.toInt < r'.toInt →
    (fromBits32 (accelToHost r)).Lt (fromBits32 (accelToHost r')) ∧
    (fromBits32 (gyroToHost r)).Lt (fromBits32 (gyroToHost r'))) ∧
  ∀ (x : Word) (v : ℚ), (fromBits32 x).IsRat v →
    (|v| < 32767 * (9.80665 / 2048) →
      ∃ y, (fromBits32 (accelToHost (BitVec.ofInt 16 (accelToWire x)))).IsRat y ∧
        |y - v| < 9.80665 / 2048 + |v| * (1 / 2 ^ 24 + 1 / 2 ^ 48)) ∧
    (|(v : ℝ)| < 32767 * (Real.pi / (180 * 16.4)) →
      ∃ y : ℚ, (fromBits32 (gyroToHost (BitVec.ofInt 16 (gyroToWire x)))).IsRat y ∧
        |(y : ℝ) - v| < Real.pi / (180 * 16.4) + |(v : ℝ)| * (1 / 2 ^ 24 + 1 / 2 ^ 48))

/-! The hub (43_hub.md). -/

/-- Rules R275, R276, R277 and R272: HUB.ATTACH of a uuid that is there, of a new one when the roster is full, while
the snapshot has no room, and otherwise. That a held command answers a next state equal to the state before, where the
spec says no step is enabled, is the model's choice (log entry 9). -/
def Obligations.HubAttachEffects : Prop :=
  ∀ (s : State) (u : Uuid), ∃ t, exec (.hubAttach u) s = .next t ∧
    if u ∈ s.roster then s.Completes t .ok 0 (BitVec.ofNat 32 s.roster.length) ∧ t = { s with ports := t.ports }
    else if s.roster.length = s.cfg.rosterCap then
      s.Completes t .rosterFull (BitVec.ofNat 32 s.roster.length) 0 ∧
        t = { s with
          ports := t.ports, counters := { s.counters with rosterReject := s.counters.rosterReject + 1 } }
    else if s.subscribed = true ∧ s.upQ.length = s.cfg.upqDepth then t = s
    else
      s.Completes t .ok 1 (BitVec.ofNat 32 (s.roster.length + 1)) ∧
        t = { s with
          ports := t.ports, roster := s.roster ++ [u]
          upQ := if s.subscribed then s.upQ ++ [.devicesSnapshot (s.roster ++ [u])] else s.upQ }

/-- Rules R280, R281 and R272: HUB.DETACH of an absent uuid, while the snapshot has no room, and otherwise. That a
held command answers a next state equal to the state before, where the spec says no step is enabled, is the model's
choice (log entry 9). -/
def Obligations.HubDetachEffects : Prop :=
  ∀ (s : State) (u : Uuid), s.roster.Nodup → ∃ t, exec (.hubDetach u) s = .next t ∧
    if u ∉ s.roster then s.Completes t .ok 0 (BitVec.ofNat 32 s.roster.length) ∧ t = { s with ports := t.ports }
    else if s.subscribed = true ∧ s.upQ.length = s.cfg.upqDepth then t = s
    else
      s.Completes t .ok 1 (BitVec.ofNat 32 (s.roster.length - 1)) ∧
        t = { s with
          ports := t.ports, roster := s.roster.erase u
          upQ := if s.subscribed then s.upQ ++ [.devicesSnapshot (s.roster.erase u)] else s.upQ }

/-- Rules R283 to R286 and R272: HUB.ROUTEOUT drops a packet for an absent device without reading it, and HUB.ROUTEIN
forwards every packet; each is held while its queue is full. That a held command answers a next state equal to the
state before, where the spec says no step is enabled, is the model's choice (log entry 9). -/
def Obligations.HubRoutingEffects : Prop :=
  ∀ (s : State) (u : Uuid) (off len : Word), off.toNat + len.toNat ≤ s.cfg.bufBytes →
    (u ∉ s.roster →
      ∃ t, exec (.hubRouteout u off len) s = .next t ∧ s.Completes t .ok 0 0 ∧
        t = { s with ports := t.ports, counters := { s.counters with routeDrop := s.counters.routeDrop + 1 } }) ∧
    (u ∈ s.roster → s.downQ.length = s.cfg.downqDepth → exec (.hubRouteout u off len) s = .next s) ∧
    (s.upQ.length = s.cfg.upqDepth → exec (.hubRoutein u off len) s = .next s) ∧
    ∀ bytes, bytes.length = len.toNat → s.buf.Holds off.toNat bytes →
      (u ∈ s.roster → s.downQ.length ≠ s.cfg.downqDepth →
        ∃ t, exec (.hubRouteout u off len) s = .next t ∧ s.Completes t .ok 1 0 ∧
          t = { s with ports := t.ports, downQ := s.downQ ++ [⟨u, bytes⟩] }) ∧
      (s.upQ.length ≠ s.cfg.upqDepth →
        ∃ t, exec (.hubRoutein u off len) s = .next t ∧ s.Completes t .ok 1 0 ∧
          t = { s with ports := t.ports, upQ := s.upQ ++ [.devicePacket u bytes] })

/-- Rules R287, R289, R290 and R272: HUB.REQUEST and HUB.SUB push one snapshot each, whatever SUBSCRIBED was, or are
held while UpQ is full. That a held command answers a next state equal to the state before, where the spec says no
step is enabled, is the model's choice (log entry 9). -/
def Obligations.HubSnapshotCommands : Prop :=
  ∀ s : State,
    if s.upQ.length = s.cfg.upqDepth then exec .hubRequest s = .next s ∧ exec .hubSub s = .next s
    else
      (∃ t, exec .hubRequest s = .next t ∧ s.Completes t .ok (BitVec.ofNat 32 s.roster.length) 0 ∧
        t = { s with ports := t.ports, upQ := s.upQ ++ [.devicesSnapshot s.roster] }) ∧
      ∃ t, exec .hubSub s = .next t ∧ s.Completes t .ok (BitVec.ofNat 32 s.roster.length) 0 ∧
        t = { s with ports := t.ports, subscribed := true, upQ := s.upQ ++ [.devicesSnapshot s.roster] }

/-- Rule R294, which the spec marks as derived from rules R275, R280, R284 and R289: with an empty roster,
unsubscribed, and room in UpQ: attach(A), attach(B), subscribe() pushes exactly one snapshot [A, B]; a later detach(A)
pushes [B]; then route_outbound to A pushes nothing and raises nothing. -/
def Obligations.HubSubscriptionLaw : Prop :=
  ∀ (s : State) (p q : Uuid) (off len : Word), p ≠ q → s.roster = [] → s.subscribed = false → 2 ≤ s.cfg.rosterCap →
    s.upQ.length + 2 ≤ s.cfg.upqDepth → off.toNat + len.toNat ≤ s.cfg.bufBytes → s.served < s.ports.length →
    ∃ s1 s2 s3 s4 s5, exec (.hubAttach p) s = .next s1 ∧ exec (.hubAttach q) s1 = .next s2 ∧
      exec .hubSub s2 = .next s3 ∧ exec (.hubDetach p) s3 = .next s4 ∧ exec (.hubRouteout p off len) s4 = .next s5 ∧
      s1.upQ = s.upQ ∧ s2.upQ = s.upQ ∧ s3.upQ = s.upQ ++ [.devicesSnapshot [p, q]] ∧
      s4.upQ = s.upQ ++ [.devicesSnapshot [p, q], .devicesSnapshot [q]] ∧
      s5.upQ = s4.upQ ∧ s5.downQ = s.downQ ∧ s4.Completes s5 .ok 0 0

/-! Control (44_control.md). -/

/-- Rules R310, R311 and R291: NOP changes nothing but the port's bank, CTR.CLR clears all six counters, HUB.UNSUB
clears SUBSCRIBED; nothing else changes. -/
def Obligations.CommandsWithoutOperands : Prop :=
  ∀ s : State, s.CompletesOnly .nop .ok 0 0 ∧
    (∃ t, exec .ctrClr s = .next t ∧ s.Completes t .ok 0 0 ∧
      t = { s with ports := t.ports, counters := ⟨0, 0, 0, 0, 0, 0⟩ }) ∧
    ∃ t, exec .hubUnsub s = .next t ∧ s.Completes t .ok 0 0 ∧ t = { s with ports := t.ports, subscribed := false }
end

