-- ==== Sys2Proof/Laws/Bytes.lean ====
section
/-! SUPPORT. The laws of bytes and little-endian words: what `++` of bit vectors is as a number, and that le16, le32,
u16le, u32le and the words of a byte sequence fit together. -/

namespace Sys2Proof.Machine

/-- A concatenation of bit vectors as a number. -/
theorem toNat_append_eq {n m : Nat} (x : BitVec n) (y : BitVec m) : (x ++ y).toNat = x.toNat * 2 ^ m + y.toNat := by
  rw [BitVec.toNat_append, ← Nat.shiftLeft_add_eq_or_of_lt y.isLt, Nat.shiftLeft_eq]

theorem toNat_extract_eq {n : Nat} (x : BitVec n) (i k : Nat) : (x.extractLsb' i k).toNat = x.toNat / 2 ^ i % 2 ^ k := by
  rw [BitVec.extractLsb'_toNat, Nat.shiftRight_eq_div_pow]

theorem u16le_toNat (b0 b1 : Byte) : (u16le b0 b1).toNat = b0.toNat + 2 ^ 8 * b1.toNat := by
  rw [u16le, toNat_append_eq]; omega

theorem u32le_toNat (b0 b1 b2 b3 : Byte) :
    (u32le b0 b1 b2 b3).toNat = b0.toNat + 2 ^ 8 * b1.toNat + 2 ^ 16 * b2.toNat + 2 ^ 24 * b3.toNat := by
  rw [u32le, toNat_append_eq, toNat_append_eq, toNat_append_eq]; omega

@[simp] theorem length_le16 (v : Half) : (le16 v).length = 2 := rfl
@[simp] theorem length_le32 (v : Word) : (le32 v).length = 4 := rfl

/-- `u16le` undoes `le16`. -/
theorem u16le_le16 (v : Half) : u16le (v.extractLsb' 0 8) (v.extractLsb' 8 8) = v := by
  apply BitVec.eq_of_toNat_eq
  have := v.isLt
  rw [u16le_toNat, toNat_extract_eq, toNat_extract_eq]; omega

/-- `u32le` undoes `le32`. -/
theorem u32le_le32 (v : Word) :
    u32le (v.extractLsb' 0 8) (v.extractLsb' 8 8) (v.extractLsb' 16 8) (v.extractLsb' 24 8) = v := by
  apply BitVec.eq_of_toNat_eq
  have := v.isLt
  rw [u32le_toNat, toNat_extract_eq, toNat_extract_eq, toNat_extract_eq, toNat_extract_eq]; omega

/-- `le16` undoes `u16le`. -/
theorem le16_u16le (b0 b1 : Byte) : le16 (u16le b0 b1) = [b0, b1] := by
  have h0 := b0.isLt
  have h1 := b1.isLt
  simp only [le16, List.cons.injEq, and_true]
  refine ⟨?_, ?_⟩ <;>
    (apply BitVec.eq_of_toNat_eq; rw [toNat_extract_eq, u16le_toNat]; omega)

/-- `le32` undoes `u32le`. -/
theorem le32_u32le (b0 b1 b2 b3 : Byte) : le32 (u32le b0 b1 b2 b3) = [b0, b1, b2, b3] := by
  have h0 := b0.isLt
  have h1 := b1.isLt
  have h2 := b2.isLt
  have h3 := b3.isLt
  simp only [le32, List.cons.injEq, and_true]
  refine ⟨?_, ?_, ?_, ?_⟩ <;>
    (apply BitVec.eq_of_toNat_eq; rw [toNat_extract_eq, u32le_toNat]; omega)

/-- The byte at an index of a sequence that is long enough. -/
theorem byteAt_of_getElem? {bs : List Byte} {i : Nat} {b : Byte} (h : bs[i]? = some b) : byteAt bs i = b := by
  rw [byteAt, List.getD_eq_getElem?_getD, h]; rfl

theorem byteAt_append_left {xs : List Byte} (ys : List Byte) {i : Nat} (h : i < xs.length) :
    byteAt (xs ++ ys) i = byteAt xs i := by
  simp [byteAt, List.getElem?_append_left h]

theorem byteAt_append_right (xs ys : List Byte) {i : Nat} (h : xs.length ≤ i) :
    byteAt (xs ++ ys) i = byteAt ys (i - xs.length) := by
  simp [byteAt, List.getElem?_append_right h]

theorem byteAt_drop (bs : List Byte) (n i : Nat) : byteAt (bs.drop n) i = byteAt bs (n + i) := by
  simp [byteAt]

theorem wordAt_append_left {xs : List Byte} (ys : List Byte) {i : Nat} (h : i + 4 ≤ xs.length) :
    wordAt (xs ++ ys) i = wordAt xs i := by
  rw [wordAt, wordAt, byteAt_append_left ys (by omega), byteAt_append_left ys (by omega),
    byteAt_append_left ys (by omega), byteAt_append_left ys (by omega)]

theorem wordAt_append_right (xs ys : List Byte) {i : Nat} (h : xs.length ≤ i) :
    wordAt (xs ++ ys) i = wordAt ys (i - xs.length) := by
  rw [wordAt, wordAt, byteAt_append_right xs ys h, byteAt_append_right xs ys (by omega),
    byteAt_append_right xs ys (by omega), byteAt_append_right xs ys (by omega),
    show i + 1 - xs.length = i - xs.length + 1 by omega, show i + 2 - xs.length = i - xs.length + 2 by omega,
    show i + 3 - xs.length = i - xs.length + 3 by omega]

/-- The first word of a sequence that begins with a word's bytes. -/
@[simp] theorem wordAt_le32 (v : Word) (bs : List Byte) : wordAt (le32 v ++ bs) 0 = v := u32le_le32 v

/-- The four bytes at an index, as a word's bytes. -/
theorem le32_wordAt (bs : List Byte) (i : Nat) :
    le32 (wordAt bs i) = [byteAt bs i, byteAt bs (i + 1), byteAt bs (i + 2), byteAt bs (i + 3)] :=
  le32_u32le _ _ _ _

theorem wordAt_toNat (bs : List Byte) (i : Nat) :
    (wordAt bs i).toNat = (byteAt bs i).toNat + 2 ^ 8 * (byteAt bs (i + 1)).toNat + 2 ^ 16 * (byteAt bs (i + 2)).toNat +
      2 ^ 24 * (byteAt bs (i + 3)).toNat := u32le_toNat _ _ _ _

/-- A number below 2^32 is what its result word shows. -/
theorem wordOf_toNat {n : Nat} (h : n < 2 ^ 32) : (wordOf n).toNat = n := by
  rw [wordOf, BitVec.toNat_ofNat, Nat.mod_eq_of_lt h]

end Sys2Proof.Machine
end

