-- ==== Sys2Proof/Laws/Memory.lean ====
section
/-! SUPPORT. The laws of the buffer space: what a cell reads as after a write or a forget, what MemRead answers, and that
every operation keeps the canonical form. -/

namespace Sys2Proof.Machine

@[simp] theorem Memory.lookup_nil (a : Nat) : Memory.lookup [] a = none := rfl

theorem Memory.lookup_cons (c : Host.Cell) (m : Memory) (a : Nat) :
    Memory.lookup (c :: m) a = if c.1 = a then some c.2 else Memory.lookup m a := rfl

theorem Memory.lookup_append (m m' : Memory) (a : Nat) :
    Memory.lookup (m ++ m') a = (Memory.lookup m a).or (Memory.lookup m' a) := by
  induction m with
  | nil => simp
  | cons c m ih =>
    rw [List.cons_append, Memory.lookup_cons, Memory.lookup_cons, ih]
    split <;> simp

/-- A filter on offsets keeps exactly the cells it says. -/
theorem Memory.lookup_filter (p : Nat → Bool) (m : Memory) (a : Nat) :
    Memory.lookup (m.filter fun c => p c.1) a = if p a then m.lookup a else none := by
  induction m with
  | nil => simp
  | cons c m ih =>
    rw [List.filter_cons]
    by_cases hc : p c.1
    · rw [if_pos hc, Memory.lookup_cons, Memory.lookup_cons, ih]
      by_cases h : c.1 = a
      · subst h; simp [hc]
      · simp [h]
    · rw [if_neg hc, ih, Memory.lookup_cons]
      by_cases h : c.1 = a
      · subst h; simp [hc]
      · simp [h]

theorem Memory.lookup_cellsFrom (a : Nat) (bs : List Byte) (x : Nat) :
    Memory.lookup (cellsFrom a bs) x = if a ≤ x then bs[x - a]? else none := by
  induction bs generalizing a with
  | nil => simp [cellsFrom]
  | cons b bs ih =>
    rw [cellsFrom, Memory.lookup_cons, ih]
    by_cases h : a = x
    · subst h; simp
    · by_cases h' : a ≤ x
      · have h1 : a + 1 ≤ x := by omega
        have h2 : x - a = x - (a + 1) + 1 := by omega
        simp [h, h', h1, h2]
      · simp [h, h', show ¬ a + 1 ≤ x by omega]

/-- Read after write: the bytes written where they were written, the old cells elsewhere. -/
theorem Memory.lookup_write (m : Memory) (a : Nat) (bs : List Byte) (x : Nat) :
    (m.write a bs).lookup x = if a ≤ x ∧ x < a + bs.length then bs[x - a]? else m.lookup x := by
  rw [Memory.write, Memory.lookup_append, Memory.lookup_append,
    Memory.lookup_filter (fun k => decide (k < a)), Memory.lookup_filter (fun k => decide (a + bs.length ≤ k)),
    Memory.lookup_cellsFrom]
  rcases Nat.lt_or_ge x a with h | h
  · simp [h, show ¬ a ≤ x by omega, show ¬ a + bs.length ≤ x by omega]
  · rcases Nat.lt_or_ge x (a + bs.length) with h' | h'
    · have : bs[x - a]? = some bs[x - a] := List.getElem?_eq_getElem (by omega)
      rw [this]
      simp [h, h', show ¬ x < a by omega]
    · have : bs[x - a]? = none := List.getElem?_eq_none (by omega)
      rw [this]
      simp [h, show ¬ x < a by omega, show ¬ x < a + bs.length by omega, h']

/-- A forgotten cell is Unknown, the others are left alone. -/
theorem Memory.lookup_forget (m : Memory) (a n x : Nat) :
    (m.forget a n).lookup x = if a ≤ x ∧ x < a + n then none else m.lookup x := by
  rw [Memory.forget, Memory.lookup_filter (fun k => decide (k < a) || decide (a + n ≤ k))]
  by_cases h : a ≤ x ∧ x < a + n
  · simp [h, show ¬ x < a by omega]
  · have : x < a ∨ a + n ≤ x := by omega
    simp [h, this]

/-- What MemRead answers when it answers: the bytes of the cells, in order. -/
theorem Memory.read_ok_iff (m : Memory) (a n : Nat) (bs : List Byte) :
    m.read a n = .ok bs ↔ bs.length = n ∧ ∀ i b, bs[i]? = some b → m.lookup (a + i) = some b := by
  induction n generalizing a bs with
  | zero =>
    constructor
    · intro h
      simp only [Memory.read, Except.ok.injEq] at h
      subst h; simp
    · rintro ⟨h, -⟩
      rw [List.length_eq_zero_iff] at h
      simp [Memory.read, h]
  | succ n ih =>
    constructor
    · intro h
      rw [Memory.read] at h
      split at h
      · cases h
      · rename_i b hb
        split at h
        · cases h
        · rename_i bs' hr
          simp only [Except.ok.injEq] at h
          subst h
          obtain ⟨hl, hi⟩ := (ih (a + 1) bs').1 hr
          refine ⟨by simp [hl], fun i c hc => ?_⟩
          cases i with
          | zero => simp only [List.getElem?_cons_zero, Option.some.injEq] at hc; subst hc; exact hb
          | succ i =>
            rw [List.getElem?_cons_succ] at hc
            have := hi i c hc
            rwa [show a + (i + 1) = a + 1 + i by omega]
    · rintro ⟨hl, hi⟩
      match bs, hl with
      | b :: bs', hl =>
        have h0 : m.lookup a = some b := by simpa using hi 0 b (by simp)
        have hr : m.read (a + 1) n = .ok bs' := by
          refine (ih (a + 1) bs').2 ⟨by simpa using hl, fun i c hc => ?_⟩
          have := hi (i + 1) c (by simpa using hc)
          rwa [show a + 1 + i = a + (i + 1) by omega]
        rw [Memory.read, h0, hr]

/-- What MemRead answers when it meets an Unknown cell: the first one. -/
theorem Memory.read_error (m : Memory) (a n off : Nat) (h : m.read a n = .error off) :
    a ≤ off ∧ off < a + n ∧ m.lookup off = none ∧ ∀ x, a ≤ x → x < off → m.lookup x ≠ none := by
  induction n generalizing a with
  | zero => simp [Memory.read] at h
  | succ n ih =>
    rw [Memory.read] at h
    split at h
    · rename_i hn
      simp only [Except.error.injEq] at h
      subst h
      exact ⟨Nat.le_refl _, by omega, hn, fun x h1 h2 => by omega⟩
    · rename_i b hb
      split at h
      · rename_i off' hr
        simp only [Except.error.injEq] at h
        subst h
        obtain ⟨h1, h2, h3, h4⟩ := ih (a + 1) hr
        refine ⟨by omega, by omega, h3, fun x hx hx' => ?_⟩
        rcases Nat.lt_or_ge a x with h' | h'
        · exact h4 x (by omega) hx'
        · have : x = a := by omega
          subst this; simp [hb]
      · cases h

theorem Memory.wf_iff (m : Memory) : m.wf = true ↔ m.Pairwise (fun x y => x.1 < y.1) := by
  simp [Memory.wf]

theorem mem_cellsFrom {a : Nat} {bs : List Byte} {c : Host.Cell} (h : c ∈ cellsFrom a bs) :
    a ≤ c.1 ∧ c.1 < a + bs.length := by
  induction bs generalizing a with
  | nil => simp [cellsFrom] at h
  | cons b bs ih =>
    rw [cellsFrom, List.mem_cons] at h
    rcases h with rfl | h
    · simp
    · have := ih h
      simp only [List.length_cons]
      omega

theorem cellsFrom_pairwise (a : Nat) (bs : List Byte) : (cellsFrom a bs).Pairwise (fun x y => x.1 < y.1) := by
  induction bs generalizing a with
  | nil => simp [cellsFrom]
  | cons b bs ih =>
    rw [cellsFrom, List.pairwise_cons]
    refine ⟨fun c hc => ?_, ih (a + 1)⟩
    have := mem_cellsFrom hc
    simp only
    omega

/-- A write keeps the canonical form. -/
theorem Memory.wf_write (m : Memory) (a : Nat) (bs : List Byte) (h : m.wf = true) : (m.write a bs).wf = true := by
  rw [Memory.wf_iff] at h ⊢
  rw [Memory.write, List.pairwise_append, List.pairwise_append]
  refine ⟨⟨h.filter _, cellsFrom_pairwise a bs, fun x hx y hy => ?_⟩, h.filter _, fun x hx y hy => ?_⟩
  · have h1 := (List.mem_filter.1 hx).2
    have h2 := mem_cellsFrom hy
    simp only [decide_eq_true_eq] at h1
    omega
  · have h2 := (List.mem_filter.1 hy).2
    simp only [decide_eq_true_eq] at h2
    rcases List.mem_append.1 hx with hx | hx
    · have h1 := (List.mem_filter.1 hx).2
      simp only [decide_eq_true_eq] at h1
      omega
    · have h1 := mem_cellsFrom hx
      omega

/-- A forget keeps the canonical form. -/
theorem Memory.wf_forget (m : Memory) (a n : Nat) (h : m.wf = true) : (m.forget a n).wf = true := by
  rw [Memory.wf_iff] at h ⊢
  exact h.filter _

/-- A cell after a write was there before, or lies in the range written. -/
theorem Memory.mem_write {m : Memory} {a : Nat} {bs : List Byte} {c : Host.Cell} (h : c ∈ m.write a bs) :
    c ∈ m ∨ (a ≤ c.1 ∧ c.1 < a + bs.length) := by
  rw [Memory.write, List.mem_append, List.mem_append] at h
  rcases h with (h | h) | h
  · exact .inl (List.mem_of_mem_filter h)
  · exact .inr (mem_cellsFrom h)
  · exact .inl (List.mem_of_mem_filter h)

/-- A cell after a forget was there before. -/
theorem Memory.mem_forget {m : Memory} {a n : Nat} {c : Host.Cell} (h : c ∈ m.forget a n) : c ∈ m :=
  List.mem_of_mem_filter h

end Sys2Proof.Machine
end

