-- ==== Sys2Proof/Laws/State.lean ====
section
/-! SUPPORT. One lemma per field of State and per update of Ops and Registers, so that no proof unfolds a record
update. -/

namespace Sys2Proof.Machine

/-! `State.store` -/

section
variable (s : State) (a : Nat) (bs : List Byte)

@[simp] theorem State.store_cfg : (s.store a bs).cfg = s.cfg := rfl
@[simp] theorem State.store_ports : (s.store a bs).ports = s.ports := rfl
@[simp] theorem State.store_roster : (s.store a bs).roster = s.roster := rfl
@[simp] theorem State.store_subscribed : (s.store a bs).subscribed = s.subscribed := rfl
@[simp] theorem State.store_upQ : (s.store a bs).upQ = s.upQ := rfl
@[simp] theorem State.store_downQ : (s.store a bs).downQ = s.downQ := rfl
@[simp] theorem State.store_rx : (s.store a bs).rx = s.rx := rfl
@[simp] theorem State.store_counters : (s.store a bs).counters = s.counters := rfl
@[simp] theorem State.store_buf : (s.store a bs).buf = s.buf.write a bs := rfl
@[simp] theorem State.store_agenda : (s.store a bs).agenda = s.agenda := rfl
@[simp] theorem State.store_program : (s.store a bs).program = s.program := rfl
@[simp] theorem State.store_served : (s.store a bs).served = s.served := rfl
@[simp] theorem State.store_upOut : (s.store a bs).upOut = s.upOut := rfl
@[simp] theorem State.store_downOut : (s.store a bs).downOut = s.downOut := rfl
@[simp] theorem State.store_hostReads : (s.store a bs).hostReads = s.hostReads := rfl

end

/-! `State.makeUnknown` -/

section
variable (s : State) (a n : Nat)

@[simp] theorem State.makeUnknown_cfg : (s.makeUnknown a n).cfg = s.cfg := rfl
@[simp] theorem State.makeUnknown_ports : (s.makeUnknown a n).ports = s.ports := rfl
@[simp] theorem State.makeUnknown_roster : (s.makeUnknown a n).roster = s.roster := rfl
@[simp] theorem State.makeUnknown_subscribed : (s.makeUnknown a n).subscribed = s.subscribed := rfl
@[simp] theorem State.makeUnknown_upQ : (s.makeUnknown a n).upQ = s.upQ := rfl
@[simp] theorem State.makeUnknown_downQ : (s.makeUnknown a n).downQ = s.downQ := rfl
@[simp] theorem State.makeUnknown_rx : (s.makeUnknown a n).rx = s.rx := rfl
@[simp] theorem State.makeUnknown_counters : (s.makeUnknown a n).counters = s.counters := rfl
@[simp] theorem State.makeUnknown_buf : (s.makeUnknown a n).buf = s.buf.forget a n := rfl
@[simp] theorem State.makeUnknown_agenda : (s.makeUnknown a n).agenda = s.agenda := rfl
@[simp] theorem State.makeUnknown_program : (s.makeUnknown a n).program = s.program := rfl
@[simp] theorem State.makeUnknown_served : (s.makeUnknown a n).served = s.served := rfl
@[simp] theorem State.makeUnknown_upOut : (s.makeUnknown a n).upOut = s.upOut := rfl
@[simp] theorem State.makeUnknown_downOut : (s.makeUnknown a n).downOut = s.downOut := rfl
@[simp] theorem State.makeUnknown_hostReads : (s.makeUnknown a n).hostReads = s.hostReads := rfl

end

/-! `State.updatePort` -/

section
variable (s : State) (p : Nat) (f : Port → Port)

@[simp] theorem State.updatePort_cfg : (s.updatePort p f).cfg = s.cfg := rfl
@[simp] theorem State.updatePort_ports : (s.updatePort p f).ports = s.ports.modify p f := rfl
@[simp] theorem State.updatePort_roster : (s.updatePort p f).roster = s.roster := rfl
@[simp] theorem State.updatePort_subscribed : (s.updatePort p f).subscribed = s.subscribed := rfl
@[simp] theorem State.updatePort_upQ : (s.updatePort p f).upQ = s.upQ := rfl
@[simp] theorem State.updatePort_downQ : (s.updatePort p f).downQ = s.downQ := rfl
@[simp] theorem State.updatePort_rx : (s.updatePort p f).rx = s.rx := rfl
@[simp] theorem State.updatePort_counters : (s.updatePort p f).counters = s.counters := rfl
@[simp] theorem State.updatePort_buf : (s.updatePort p f).buf = s.buf := rfl
@[simp] theorem State.updatePort_agenda : (s.updatePort p f).agenda = s.agenda := rfl
@[simp] theorem State.updatePort_program : (s.updatePort p f).program = s.program := rfl
@[simp] theorem State.updatePort_served : (s.updatePort p f).served = s.served := rfl
@[simp] theorem State.updatePort_upOut : (s.updatePort p f).upOut = s.upOut := rfl
@[simp] theorem State.updatePort_downOut : (s.updatePort p f).downOut = s.downOut := rfl
@[simp] theorem State.updatePort_hostReads : (s.updatePort p f).hostReads = s.hostReads := rfl

end

/-! `State.complete` -/

section
variable (s : State) (c : StatusCode) (r0 r1 : Word)

@[simp] theorem State.complete_cfg : (s.complete c r0 r1).cfg = s.cfg := rfl
@[simp] theorem State.complete_ports : (s.complete c r0 r1).ports = s.ports.modify s.served (completePort c r0 r1) := rfl
@[simp] theorem State.complete_roster : (s.complete c r0 r1).roster = s.roster := rfl
@[simp] theorem State.complete_subscribed : (s.complete c r0 r1).subscribed = s.subscribed := rfl
@[simp] theorem State.complete_upQ : (s.complete c r0 r1).upQ = s.upQ := rfl
@[simp] theorem State.complete_downQ : (s.complete c r0 r1).downQ = s.downQ := rfl
@[simp] theorem State.complete_rx : (s.complete c r0 r1).rx = s.rx := rfl
@[simp] theorem State.complete_counters : (s.complete c r0 r1).counters = s.counters := rfl
@[simp] theorem State.complete_buf : (s.complete c r0 r1).buf = s.buf := rfl
@[simp] theorem State.complete_agenda : (s.complete c r0 r1).agenda = s.agenda := rfl
@[simp] theorem State.complete_program : (s.complete c r0 r1).program = s.program := rfl
@[simp] theorem State.complete_served : (s.complete c r0 r1).served = s.served := rfl
@[simp] theorem State.complete_upOut : (s.complete c r0 r1).upOut = s.upOut := rfl
@[simp] theorem State.complete_downOut : (s.complete c r0 r1).downOut = s.downOut := rfl
@[simp] theorem State.complete_hostReads : (s.complete c r0 r1).hostReads = s.hostReads := rfl

end

/-! `State.count` -/

section
variable (s : State) (f : Counters → Counters)

@[simp] theorem State.count_cfg : (s.count f).cfg = s.cfg := rfl
@[simp] theorem State.count_ports : (s.count f).ports = s.ports := rfl
@[simp] theorem State.count_roster : (s.count f).roster = s.roster := rfl
@[simp] theorem State.count_subscribed : (s.count f).subscribed = s.subscribed := rfl
@[simp] theorem State.count_upQ : (s.count f).upQ = s.upQ := rfl
@[simp] theorem State.count_downQ : (s.count f).downQ = s.downQ := rfl
@[simp] theorem State.count_rx : (s.count f).rx = s.rx := rfl
@[simp] theorem State.count_counters : (s.count f).counters = f s.counters := rfl
@[simp] theorem State.count_buf : (s.count f).buf = s.buf := rfl
@[simp] theorem State.count_agenda : (s.count f).agenda = s.agenda := rfl
@[simp] theorem State.count_program : (s.count f).program = s.program := rfl
@[simp] theorem State.count_served : (s.count f).served = s.served := rfl
@[simp] theorem State.count_upOut : (s.count f).upOut = s.upOut := rfl
@[simp] theorem State.count_downOut : (s.count f).downOut = s.downOut := rfl
@[simp] theorem State.count_hostReads : (s.count f).hostReads = s.hostReads := rfl

end

/-! `State.pushUp` -/

section
variable (s : State) (e : UpEntry)

@[simp] theorem State.pushUp_cfg : (s.pushUp e).cfg = s.cfg := rfl
@[simp] theorem State.pushUp_ports : (s.pushUp e).ports = s.ports := rfl
@[simp] theorem State.pushUp_roster : (s.pushUp e).roster = s.roster := rfl
@[simp] theorem State.pushUp_subscribed : (s.pushUp e).subscribed = s.subscribed := rfl
@[simp] theorem State.pushUp_upQ : (s.pushUp e).upQ = s.upQ ++ [e] := rfl
@[simp] theorem State.pushUp_downQ : (s.pushUp e).downQ = s.downQ := rfl
@[simp] theorem State.pushUp_rx : (s.pushUp e).rx = s.rx := rfl
@[simp] theorem State.pushUp_counters : (s.pushUp e).counters = s.counters := rfl
@[simp] theorem State.pushUp_buf : (s.pushUp e).buf = s.buf := rfl
@[simp] theorem State.pushUp_agenda : (s.pushUp e).agenda = s.agenda := rfl
@[simp] theorem State.pushUp_program : (s.pushUp e).program = s.program := rfl
@[simp] theorem State.pushUp_served : (s.pushUp e).served = s.served := rfl
@[simp] theorem State.pushUp_upOut : (s.pushUp e).upOut = s.upOut := rfl
@[simp] theorem State.pushUp_downOut : (s.pushUp e).downOut = s.downOut := rfl
@[simp] theorem State.pushUp_hostReads : (s.pushUp e).hostReads = s.hostReads := rfl

end

/-! `State.pushDown` -/

section
variable (s : State) (e : DownEntry)

@[simp] theorem State.pushDown_cfg : (s.pushDown e).cfg = s.cfg := rfl
@[simp] theorem State.pushDown_ports : (s.pushDown e).ports = s.ports := rfl
@[simp] theorem State.pushDown_roster : (s.pushDown e).roster = s.roster := rfl
@[simp] theorem State.pushDown_subscribed : (s.pushDown e).subscribed = s.subscribed := rfl
@[simp] theorem State.pushDown_upQ : (s.pushDown e).upQ = s.upQ := rfl
@[simp] theorem State.pushDown_downQ : (s.pushDown e).downQ = s.downQ ++ [e] := rfl
@[simp] theorem State.pushDown_rx : (s.pushDown e).rx = s.rx := rfl
@[simp] theorem State.pushDown_counters : (s.pushDown e).counters = s.counters := rfl
@[simp] theorem State.pushDown_buf : (s.pushDown e).buf = s.buf := rfl
@[simp] theorem State.pushDown_agenda : (s.pushDown e).agenda = s.agenda := rfl
@[simp] theorem State.pushDown_program : (s.pushDown e).program = s.program := rfl
@[simp] theorem State.pushDown_served : (s.pushDown e).served = s.served := rfl
@[simp] theorem State.pushDown_upOut : (s.pushDown e).upOut = s.upOut := rfl
@[simp] theorem State.pushDown_downOut : (s.pushDown e).downOut = s.downOut := rfl
@[simp] theorem State.pushDown_hostReads : (s.pushDown e).hostReads = s.hostReads := rfl

end

/-! `State.pushSnapshot` -/

section
variable (s : State)

@[simp] theorem State.pushSnapshot_cfg : (s.pushSnapshot).cfg = s.cfg := rfl
@[simp] theorem State.pushSnapshot_ports : (s.pushSnapshot).ports = s.ports := rfl
@[simp] theorem State.pushSnapshot_roster : (s.pushSnapshot).roster = s.roster := rfl
@[simp] theorem State.pushSnapshot_subscribed : (s.pushSnapshot).subscribed = s.subscribed := rfl
@[simp] theorem State.pushSnapshot_upQ : (s.pushSnapshot).upQ = s.upQ ++ [.devicesSnapshot s.roster] := rfl
@[simp] theorem State.pushSnapshot_downQ : (s.pushSnapshot).downQ = s.downQ := rfl
@[simp] theorem State.pushSnapshot_rx : (s.pushSnapshot).rx = s.rx := rfl
@[simp] theorem State.pushSnapshot_counters : (s.pushSnapshot).counters = s.counters := rfl
@[simp] theorem State.pushSnapshot_buf : (s.pushSnapshot).buf = s.buf := rfl
@[simp] theorem State.pushSnapshot_agenda : (s.pushSnapshot).agenda = s.agenda := rfl
@[simp] theorem State.pushSnapshot_program : (s.pushSnapshot).program = s.program := rfl
@[simp] theorem State.pushSnapshot_served : (s.pushSnapshot).served = s.served := rfl
@[simp] theorem State.pushSnapshot_upOut : (s.pushSnapshot).upOut = s.upOut := rfl
@[simp] theorem State.pushSnapshot_downOut : (s.pushSnapshot).downOut = s.downOut := rfl
@[simp] theorem State.pushSnapshot_hostReads : (s.pushSnapshot).hostReads = s.hostReads := rfl

end

/-! `State.updateRx` -/

section
variable (s : State) (ch : Nat) (f : RxChannel → RxChannel)

@[simp] theorem State.updateRx_cfg : (s.updateRx ch f).cfg = s.cfg := rfl
@[simp] theorem State.updateRx_ports : (s.updateRx ch f).ports = s.ports := rfl
@[simp] theorem State.updateRx_roster : (s.updateRx ch f).roster = s.roster := rfl
@[simp] theorem State.updateRx_subscribed : (s.updateRx ch f).subscribed = s.subscribed := rfl
@[simp] theorem State.updateRx_upQ : (s.updateRx ch f).upQ = s.upQ := rfl
@[simp] theorem State.updateRx_downQ : (s.updateRx ch f).downQ = s.downQ := rfl
@[simp] theorem State.updateRx_rx : (s.updateRx ch f).rx = s.rx.modify ch f := rfl
@[simp] theorem State.updateRx_counters : (s.updateRx ch f).counters = s.counters := rfl
@[simp] theorem State.updateRx_buf : (s.updateRx ch f).buf = s.buf := rfl
@[simp] theorem State.updateRx_agenda : (s.updateRx ch f).agenda = s.agenda := rfl
@[simp] theorem State.updateRx_program : (s.updateRx ch f).program = s.program := rfl
@[simp] theorem State.updateRx_served : (s.updateRx ch f).served = s.served := rfl
@[simp] theorem State.updateRx_upOut : (s.updateRx ch f).upOut = s.upOut := rfl
@[simp] theorem State.updateRx_downOut : (s.updateRx ch f).downOut = s.downOut := rfl
@[simp] theorem State.updateRx_hostReads : (s.updateRx ch f).hostReads = s.hostReads := rfl

end

/-! `State.noteRead` -/

section
variable (s : State) (p : Nat) (v : Word)

@[simp] theorem State.noteRead_cfg : (s.noteRead p v).cfg = s.cfg := rfl
@[simp] theorem State.noteRead_ports : (s.noteRead p v).ports = s.ports := rfl
@[simp] theorem State.noteRead_roster : (s.noteRead p v).roster = s.roster := rfl
@[simp] theorem State.noteRead_subscribed : (s.noteRead p v).subscribed = s.subscribed := rfl
@[simp] theorem State.noteRead_upQ : (s.noteRead p v).upQ = s.upQ := rfl
@[simp] theorem State.noteRead_downQ : (s.noteRead p v).downQ = s.downQ := rfl
@[simp] theorem State.noteRead_rx : (s.noteRead p v).rx = s.rx := rfl
@[simp] theorem State.noteRead_counters : (s.noteRead p v).counters = s.counters := rfl
@[simp] theorem State.noteRead_buf : (s.noteRead p v).buf = s.buf := rfl
@[simp] theorem State.noteRead_agenda : (s.noteRead p v).agenda = s.agenda := rfl
@[simp] theorem State.noteRead_program : (s.noteRead p v).program = s.program := rfl
@[simp] theorem State.noteRead_served : (s.noteRead p v).served = s.served := rfl
@[simp] theorem State.noteRead_upOut : (s.noteRead p v).upOut = s.upOut := rfl
@[simp] theorem State.noteRead_downOut : (s.noteRead p v).downOut = s.downOut := rfl
@[simp] theorem State.noteRead_hostReads : (s.noteRead p v).hostReads = s.hostReads ++ [(p, v)] := rfl

end

/-! `State.notify` is a conditional update. -/

section
variable (s : State)

@[simp] theorem State.notify_upQ :
    s.notify.upQ = if s.subscribed then s.upQ ++ [.devicesSnapshot s.roster] else s.upQ := by
  unfold State.notify; split <;> rfl
@[simp] theorem State.notify_cfg : s.notify.cfg = s.cfg := by unfold State.notify; split <;> rfl
@[simp] theorem State.notify_ports : s.notify.ports = s.ports := by unfold State.notify; split <;> rfl
@[simp] theorem State.notify_roster : s.notify.roster = s.roster := by unfold State.notify; split <;> rfl
@[simp] theorem State.notify_subscribed : s.notify.subscribed = s.subscribed := by unfold State.notify; split <;> rfl
@[simp] theorem State.notify_downQ : s.notify.downQ = s.downQ := by unfold State.notify; split <;> rfl
@[simp] theorem State.notify_rx : s.notify.rx = s.rx := by unfold State.notify; split <;> rfl
@[simp] theorem State.notify_counters : s.notify.counters = s.counters := by unfold State.notify; split <;> rfl
@[simp] theorem State.notify_buf : s.notify.buf = s.buf := by unfold State.notify; split <;> rfl
@[simp] theorem State.notify_agenda : s.notify.agenda = s.agenda := by unfold State.notify; split <;> rfl
@[simp] theorem State.notify_program : s.notify.program = s.program := by unfold State.notify; split <;> rfl
@[simp] theorem State.notify_served : s.notify.served = s.served := by unfold State.notify; split <;> rfl
@[simp] theorem State.notify_upOut : s.notify.upOut = s.upOut := by unfold State.notify; split <;> rfl
@[simp] theorem State.notify_downOut : s.notify.downOut = s.downOut := by unfold State.notify; split <;> rfl
@[simp] theorem State.notify_hostReads : s.notify.hostReads = s.hostReads := by unfold State.notify; split <;> rfl

end

/-! The port bank after a completion. -/

section
variable (c : StatusCode) (r0 r1 : Word) (pt : Port)

@[simp] theorem completePort_arg0 : (completePort c r0 r1 pt).arg0 = pt.arg0 := rfl
@[simp] theorem completePort_arg1 : (completePort c r0 r1 pt).arg1 = pt.arg1 := rfl
@[simp] theorem completePort_arg2 : (completePort c r0 r1 pt).arg2 = pt.arg2 := rfl
@[simp] theorem completePort_arg3 : (completePort c r0 r1 pt).arg3 = pt.arg3 := rfl
@[simp] theorem completePort_overrun : (completePort c r0 r1 pt).overrun = pt.overrun := rfl
@[simp] theorem completePort_latch : (completePort c r0 r1 pt).latch = pt.latch := rfl
@[simp] theorem completePort_code : (completePort c r0 r1 pt).code = c := rfl
@[simp] theorem completePort_res0 : (completePort c r0 r1 pt).res0 = r0 := rfl
@[simp] theorem completePort_res1 : (completePort c r0 r1 pt).res1 = r1 := rfl
@[simp] theorem completePort_pending : (completePort c r0 r1 pt).pending = false := rfl

end

end Sys2Proof.Machine
end

