-- ==== Sys2Proof/Laws/Ops.lean ====
section
/-! SUPPORT. One lemma for each shared operation that says once everything it can do. -/

namespace Sys2Proof.Machine

/-! MemRead inside a command. -/

/-- The bytes the cells hold are the bytes MemRead answers. -/
theorem Memory.read_of_holds {m : Memory} {a n : Nat} {bs : List Byte} (hl : bs.length = n) (h : m.Holds a bs) :
    m.read a n = .ok bs := (Memory.read_ok_iff m a n bs).2 ⟨hl, h⟩

theorem Memory.holds_of_read {m : Memory} {a n : Nat} {bs : List Byte} (h : m.read a n = .ok bs) :
    bs.length = n ∧ m.Holds a bs := (Memory.read_ok_iff m a n bs).1 h

/-- A command whose cells are Known goes on with their bytes. -/
theorem State.reading_of_holds {s : State} {a n : Nat} {bs : List Byte} (k : List Byte → Result)
    (hl : bs.length = n) (h : s.buf.Holds a bs) : s.reading a n k = k bs := by
  rw [State.reading, Memory.read_of_holds hl h]

/-- The first Unknown cell of a range is the one MemRead answers. -/
theorem Memory.read_of_firstUnknown {m : Memory} {a n x : Nat} (h : m.FirstUnknown a n x) : m.read a n = .error x := by
  obtain ⟨h1, h2, h3, h4⟩ := h
  cases hr : m.read a n with
  | ok bs =>
    obtain ⟨hl, hb⟩ := Memory.holds_of_read hr
    have := hb (x - a) _ (List.getElem?_eq_getElem (by omega))
    rw [Nat.add_sub_of_le h1, h3] at this
    cases this
  | error off =>
    obtain ⟨ho1, ho2, ho3, ho4⟩ := Memory.read_error m a n off hr
    rcases Nat.lt_trichotomy off x with h | h | h
    · exact absurd ho3 (h4 off ho1 h)
    · rw [h]
    · exact absurd h3 (ho4 x h1 h)

/-- A command that reads an Unknown cell faults at the first one. -/
theorem State.reading_of_firstUnknown {s : State} {a n x : Nat} (k : List Byte → Result)
    (h : s.buf.FirstUnknown a n x) : s.reading a n k = .fault (.unknownRead x) := by
  rw [State.reading, Memory.read_of_firstUnknown h]

/-- What a reading command can do: go on with the bytes of the cells, or fault at the first Unknown one. -/
theorem State.reading_cases (s : State) (a n : Nat) (k : List Byte → Result) :
    (∃ bs, s.buf.read a n = .ok bs ∧ s.reading a n k = k bs) ∨
    (∃ off, s.buf.read a n = .error off ∧ s.reading a n k = .fault (.unknownRead off)) := by
  rw [State.reading]
  cases h : s.buf.read a n with
  | ok bs => exact .inl ⟨bs, rfl, rfl⟩
  | error off => exact .inr ⟨off, rfl, rfl⟩

theorem State.reading_next {s t : State} {a n : Nat} {k : List Byte → Result} (h : s.reading a n k = .next t) :
    ∃ bs, s.buf.read a n = .ok bs ∧ k bs = .next t := by
  rcases s.reading_cases a n k with ⟨bs, hr, he⟩ | ⟨off, -, he⟩
  · exact ⟨bs, hr, he ▸ h⟩
  · rw [he] at h; cases h

/-! The range checks. -/

/-- What a range check can do: the rest of the command, or BadAddress with the index of the offset's ARG. -/
theorem withRange_eq (s : State) (k a n : Nat) (rest : Result) :
    withRange s k a n rest =
      if a + n ≤ s.cfg.bufBytes then rest else .next (s.complete .badAddress (wordOf k) 0) := by
  simp only [withRange, inRange, badAddress, State.raise, decide_eq_true_eq]

theorem overlaps_iff (a n b m : Nat) : overlaps a n b m = true ↔ ¬ Apart a n b m := by
  simp only [overlaps, Bool.and_eq_true, decide_eq_true_eq, Apart]
  omega

/-- What the checks of a two-range command can do, in their order. -/
theorem withRanges_eq (s : State) (ka a n kb b m : Nat) (rest : Result) :
    withRanges s ka a n kb b m rest =
      if a + n ≤ s.cfg.bufBytes then
        if b + m ≤ s.cfg.bufBytes then
          if overlaps a n b m then .next (s.complete .overlap 0 0) else rest
        else .next (s.complete .badAddress (wordOf kb) 0)
      else .next (s.complete .badAddress (wordOf ka) 0) := by
  rw [withRanges, withRange_eq, withRange_eq]
  rfl

/-- Both ranges in BUF and apart: the command goes on. -/
theorem withRanges_of_apart {s : State} {a n b m : Nat} (ka kb : Nat) (rest : Result)
    (ha : a + n ≤ s.cfg.bufBytes) (hb : b + m ≤ s.cfg.bufBytes) (h : Apart a n b m) :
    withRanges s ka a n kb b m rest = rest := by
  have : ¬ overlaps a n b m = true := fun h' => (overlaps_iff a n b m).1 h' h
  rw [withRanges_eq, if_pos ha, if_pos hb, if_neg this]

/-! How a command ends. -/

/-- Everything a completion does, seen from any state with the same banks and the same port served. -/
theorem State.complete_completes {s s' : State} (hp : s'.ports = s.ports) (hs : s'.served = s.served)
    (code : StatusCode) (r0 r1 : Word) : s.Completes (s'.complete code r0 r1) code r0 r1 := by
  refine ⟨by simp [hp], fun q hq => ?_, fun pt hpt => ?_⟩
  · simp [hp, hs, Ne.symm hq]
  · simp [hp, hs, hpt, completePort]

/-- The buffer after a write holds the bytes, and every other cell is as before. -/
theorem Memory.write_stores (m : Memory) (a : Nat) (bs : List Byte) : m.Stores (m.write a bs) a bs := by
  refine ⟨fun i b h => ?_, fun x hx => ?_⟩
  · have hi : i < bs.length := (List.getElem?_eq_some_iff.1 h).1
    rw [Memory.lookup_write, if_pos (by omega), show a + i - a = i by omega, h]
  · rw [Memory.lookup_write, if_neg (by omega)]

/-- The buffer after a forget. -/
theorem Memory.forget_forgets (m : Memory) (a n : Nat) : m.Forgets (m.forget a n) a n := by
  refine ⟨fun x h1 h2 => ?_, fun x hx => ?_⟩
  · rw [Memory.lookup_forget, if_pos ⟨h1, h2⟩]
  · rw [Memory.lookup_forget, if_neg (by omega)]

theorem Memory.keeps_rfl (m : Memory) : m.Keeps m := fun _ => rfl

/-! Lists of banks and channels. -/

/-- Changing an entry that is there is setting it. -/
theorem modify_eq_set {α : Type} {l : List α} {i : Nat} {x : α} (f : α → α) (h : l[i]? = some x) :
    l.modify i f = l.set i (f x) := by
  refine List.ext_getElem? fun j => ?_
  rw [List.getElem?_modify, List.getElem?_set]
  by_cases hj : i = j
  · subst hj
    obtain ⟨hi, hx⟩ := List.getElem?_eq_some_iff.1 h
    simp [hi, hx]
  · simp [hj]

theorem modify_of_none {α : Type} {l : List α} {i : Nat} (f : α → α) (h : l[i]? = none) : l.modify i f = l := by
  refine List.ext_getElem? fun j => ?_
  rw [List.getElem?_modify]
  by_cases hj : i = j
  · subst hj; simp [h]
  · simp [hj]

end Sys2Proof.Machine
end

