-- ==== Sys2Proof/Laws/Packet.lean ====
section
/-! SUPPORT. The lengths of the pieces that packets and host records are made of, and where each piece stands in a
concatenation of pieces of one length. -/

namespace Sys2Proof.Machine

@[simp] theorem length_motPack (h : MotData) : (motPack h).length = 16 := rfl
@[simp] theorem length_motRecord (h : MotData) : (motRecord h).length = 56 := rfl
@[simp] theorem length_mkPack (x y : BitVec 12) : (mkPack x y).length = 3 := rfl
@[simp] theorem length_packetHeader (n : Nat) (t id : Byte) : (packetHeader n t id).length = 4 := rfl

/-- The length of a concatenation of pieces of one length. -/
theorem length_flatMap_pieces {α : Type} (l : List Nat) (f : Nat → List α) (n : Nat) (h : ∀ i, (f i).length = n) :
    (l.flatMap f).length = n * l.length := by
  induction l with
  | nil => simp
  | cons a l ih => rw [List.flatMap_cons, List.length_append, h, ih, List.length_cons, Nat.mul_succ, Nat.add_comm]

/-- Byte `j` of piece `i` in a concatenation of pieces of one length. -/
theorem byteAt_flatMap_pieces (n : Nat) (f : Nat → List Byte) (m : Nat) (h : ∀ i, (f i).length = m) (i j : Nat)
    (hi : i < n) (hj : j < m) : byteAt ((List.range n).flatMap f) (m * i + j) = byteAt (f i) j := by
  induction n with
  | zero => omega
  | succ n ih =>
    have hl : ((List.range n).flatMap f).length = m * n := by
      rw [length_flatMap_pieces _ f m h, List.length_range]
    rw [List.range_succ, List.flatMap_append, List.flatMap_singleton]
    rcases Nat.lt_or_ge i n with h' | h'
    · have : m * (i + 1) ≤ m * n := Nat.mul_le_mul_left _ h'
      rw [Nat.mul_succ] at this
      rw [byteAt_append_left _ (by omega)]
      exact ih h'
    · obtain rfl : i = n := by omega
      rw [byteAt_append_right _ _ (by omega), hl, Nat.add_sub_cancel_left]

end Sys2Proof.Machine
end

