-- ==== Sys2Proof/Laws/PerInstr.lean ====
section
/-! SUPPORT. The statements made instruction by instruction. CanonicalEncode: the five words the encoder writes for a
command are its canonical writing, with no reserved bit and no bit of an operand that its form ignores
(30_encoding.md rules R100, R101, R103 and R110). -/

namespace Sys2Proof.Laws.CanonicalEncode

open Sys2Proof.Machine

/-- The encoding of a command is canonical. -/
def Statement (i : Instr) : Prop := (encode i).canonical = true

/-- What a canonical latch is, for an opcode of the operand table. -/
theorem canonical_of {op : Byte} {w : OperandWidths} {a0 a1 a2 a3 : Word} (hw : operandWidths op = some w)
    (h0 : a0.toNat < 2 ^ w.w0) (h1 : a1.toNat < 2 ^ w.w1) (h2 : a2.toNat < 2 ^ w.w2) (h3 : a3.toNat < 2 ^ w.w3) :
    Latch.canonical ⟨op.setWidth 32, a0, a1, a2, a3⟩ = true := by
  have hop : (op.setWidth 32).setWidth 8 = op := by simp
  have hr : (op.setWidth 32).extractLsb' 8 24 = 0 := by
    apply BitVec.eq_of_toNat_eq
    have := op.isLt
    rw [toNat_extract_eq, BitVec.toNat_setWidth, show (0 : BitVec 24).toNat = 0 from rfl]
    omega
  simp only [Latch.canonical, hop, hw, hr, beq_self_eq_true, Bool.true_and, Bool.and_eq_true, decide_eq_true_eq]
  exact ⟨⟨⟨h0, h1⟩, h2⟩, h3⟩

theorem zero_fits (n : Nat) : (0 : Word).toNat < 2 ^ n := Nat.two_pow_pos n

theorem setWidth_fits {n : Nat} (h : n ≤ 32) (x : BitVec n) : (x.setWidth 32).toNat < 2 ^ n := by
  rw [BitVec.toNat_setWidth_of_le h]; exact x.isLt

theorem uuidHi_fits (u : Uuid) : (uuidHi u).toNat < 2 ^ 16 := by
  rw [uuidHi, BitVec.toNat_setWidth_of_le (by omega)]; exact (u.b5 ++ u.b4).isLt

theorem nop : Statement .nop :=
  canonical_of (op := 0x00) rfl (zero_fits _) (zero_fits _) (zero_fits _) (zero_fits _)

theorem slipEnc (src len dst cap : Word) : Statement (.slipEnc src len dst cap) :=
  canonical_of (op := 0x01) rfl src.isLt len.isLt dst.isLt cap.isLt

theorem slipDec (off len : Word) : Statement (.slipDec off len) :=
  canonical_of (op := 0x02) rfl off.isLt len.isLt (zero_fits _) (zero_fits _)

theorem slipRx (byte : Byte) (ch : Word) : Statement (.slipRx byte ch) :=
  canonical_of (op := 0x03) rfl (setWidth_fits (by omega) byte) ch.isLt (zero_fits _) (zero_fits _)

theorem slipRxclr (ch : Word) : Statement (.slipRxclr ch) :=
  canonical_of (op := 0x04) rfl ch.isLt (zero_fits _) (zero_fits _) (zero_fits _)

theorem typeClass (b : Byte) : Statement (.typeClass b) :=
  canonical_of (op := 0x10) rfl (setWidth_fits (by omega) b) (zero_fits _) (zero_fits _) (zero_fits _)

theorem pktSer (record dst cap : Word) : Statement (.pktSer record dst cap) :=
  canonical_of (op := 0x11) rfl record.isLt dst.isLt cap.isLt (zero_fits _)

theorem pktParse (src len record cap : Word) : Statement (.pktParse src len record cap) :=
  canonical_of (op := 0x12) rfl src.isLt len.isLt record.isLt cap.isLt

theorem motPack (record dst : Word) : Statement (.motPack record dst) :=
  canonical_of (op := 0x13) rfl record.isLt dst.isLt (zero_fits _) (zero_fits _)

theorem motUnpack (src record : Word) : Statement (.motUnpack src record) :=
  canonical_of (op := 0x14) rfl src.isLt record.isLt (zero_fits _) (zero_fits _)

theorem mrkPack (x y : BitVec 12) : Statement (.mrkPack x y) :=
  canonical_of (op := 0x15) rfl (setWidth_fits (by omega) x) (setWidth_fits (by omega) y) (zero_fits _) (zero_fits _)

theorem mrkUnpack (v : BitVec 24) : Statement (.mrkUnpack v) :=
  canonical_of (op := 0x16) rfl (setWidth_fits (by omega) v) (zero_fits _) (zero_fits _) (zero_fits _)

theorem convA2w (x : Word) : Statement (.convA2w x) :=
  canonical_of (op := 0x20) rfl x.isLt (zero_fits _) (zero_fits _) (zero_fits _)

theorem convW2a (r : Half) : Statement (.convW2a r) :=
  canonical_of (op := 0x21) rfl (setWidth_fits (by omega) r) (zero_fits _) (zero_fits _) (zero_fits _)

theorem convG2w (x : Word) : Statement (.convG2w x) :=
  canonical_of (op := 0x22) rfl x.isLt (zero_fits _) (zero_fits _) (zero_fits _)

theorem convW2g (r : Half) : Statement (.convW2g r) :=
  canonical_of (op := 0x23) rfl (setWidth_fits (by omega) r) (zero_fits _) (zero_fits _) (zero_fits _)

theorem hubAttach (u : Uuid) : Statement (.hubAttach u) :=
  canonical_of (op := 0x30) rfl ((uuidLo u).isLt) (uuidHi_fits u) (zero_fits _) (zero_fits _)

theorem hubDetach (u : Uuid) : Statement (.hubDetach u) :=
  canonical_of (op := 0x31) rfl ((uuidLo u).isLt) (uuidHi_fits u) (zero_fits _) (zero_fits _)

theorem hubRouteout (u : Uuid) (off len : Word) : Statement (.hubRouteout u off len) :=
  canonical_of (op := 0x32) rfl ((uuidLo u).isLt) (uuidHi_fits u) off.isLt len.isLt

theorem hubRoutein (u : Uuid) (off len : Word) : Statement (.hubRoutein u off len) :=
  canonical_of (op := 0x33) rfl ((uuidLo u).isLt) (uuidHi_fits u) off.isLt len.isLt

theorem hubRequest : Statement .hubRequest :=
  canonical_of (op := 0x34) rfl (zero_fits _) (zero_fits _) (zero_fits _) (zero_fits _)

theorem hubSub : Statement .hubSub :=
  canonical_of (op := 0x35) rfl (zero_fits _) (zero_fits _) (zero_fits _) (zero_fits _)

theorem hubUnsub : Statement .hubUnsub :=
  canonical_of (op := 0x36) rfl (zero_fits _) (zero_fits _) (zero_fits _) (zero_fits _)

theorem ctrClr : Statement .ctrClr :=
  canonical_of (op := 0x3F) rfl (zero_fits _) (zero_fits _) (zero_fits _) (zero_fits _)

end Sys2Proof.Laws.CanonicalEncode
end

