-- ==== Sys2Proof/Laws/Step.lean ====
section
/-! SUPPORT. What one step does with the head of the agenda, and what an access to a register of a port's bank or of a
deframer channel's group reads or writes. -/

namespace Sys2Proof.Machine

/-- A step is the first agent step of the agenda. -/
theorem step_cons {s : State} {a : AgentStep} {rest : List AgentStep} (h : s.agenda = a :: rest) :
    step s = agentStep a { s with agenda := rest } := by
  unfold step; rw [h]

/-- With an empty agenda no agent moves. -/
theorem step_nil {s : State} (h : s.agenda = []) : step s = .next s := by
  unfold step; rw [h]

/-- A host step by a port the block has is its access. -/
theorem hostStep_of_lt {s : State} {p : Nat} (a : Access) (hp : p < s.ports.length) : hostStep p a s = hostAccess p a s :=
  if_pos hp

/-- Everything a step of the software's program can do: nothing, one host access, or a step of a consumer. -/
theorem programStep_cases (s : State) :
    programStep s = .next s ∨ ∃ rest, (∃ p a, programStep s = hostStep p a { s with program := rest }) ∨
      programStep s = .next (takeUpstream { s with program := rest }) ∨
      programStep s = .next (takeDownstream { s with program := rest }) := by
  unfold programStep
  split
  · exact .inl rfl
  · exact .inr ⟨_, .inl ⟨_, _, rfl⟩⟩
  · exact .inr ⟨_, .inl ⟨_, _, rfl⟩⟩
  · split
    · exact .inl rfl
    · exact .inr ⟨_, .inr (.inl rfl)⟩
  · split
    · exact .inl rfl
    · exact .inr ⟨_, .inr (.inr rfl)⟩

/-- A program step that is an access is that access, and the program goes on. -/
theorem programStep_access {s : State} {p : Nat} {a : Access} {rest : List ProgramStep}
    (h : s.program = .access p a :: rest) : programStep s = hostStep p a { s with program := rest } := by
  unfold programStep; rw [h]

/-- A `wait` reads STATUS, and the program goes on exactly when PENDING reads 0. -/
theorem programStep_wait {s : State} {p : Nat} {rest : List ProgramStep} (h : s.program = .wait p :: rest) :
    programStep s = hostStep p (.regRead (0x40 * p + 0x04) 4)
      { s with program := if statusPending p s then .wait p :: rest else rest } := by
  unfold programStep; rw [h]

/-- A host step of the agenda by a port the block has is its access. -/
theorem step_host {s : State} {p : Nat} {a : Access} {rest : List AgentStep} (h : s.agenda = .host p a :: rest)
    (hp : p < s.ports.length) : step s = hostAccess p a { s with agenda := rest } := by
  rw [step_cons h]; exact if_pos hp

/-- A 32-bit read of an aligned register offset. -/
theorem hostAccess_regRead (s : State) (p off : Nat) (h4 : off % 4 = 0) (hlt : off < 0x4000) :
    hostAccess p (.regRead off 4) s = .next (s.noteRead p (readReg s off)) :=
  if_pos (by simp [regAccessOk, h4, hlt])

/-- A 32-bit write of an aligned register offset. -/
theorem hostAccess_regWrite (s : State) (p off : Nat) (v : Word) (h4 : off % 4 = 0) (hlt : off < 0x4000) :
    hostAccess p (.regWrite off 4 v) s = .next (writeReg s off v) :=
  if_pos (by simp [regAccessOk, h4, hlt])

/-- A read in a port's bank. -/
theorem readReg_port {s : State} {p k : Nat} {pt : Port} (hp : p < 16) (hk : k < 0x40) (h : s.ports[p]? = some pt) :
    readReg s (0x40 * p + k) = readPort pt k := by
  have h1 : (0x40 * p + k) / 0x40 = p := by omega
  have h2 : (0x40 * p + k) % 0x40 = k := by omega
  rw [readReg, if_pos (by omega), h1, h2, h]

/-- A write in a port's bank. -/
theorem writeReg_port {s : State} {p k : Nat} {pt : Port} (v : Word) (hp : p < 16) (hk : k < 0x40)
    (h : s.ports[p]? = some pt) :
    writeReg s (0x40 * p + k) v = { s with ports := s.ports.set p (writePort k v pt) } := by
  have h1 : (0x40 * p + k) / 0x40 = p := by omega
  have h2 : (0x40 * p + k) % 0x40 = k := by omega
  rw [writeReg, if_pos (by omega), h1, h2, State.updatePort, modify_eq_set _ h]

/-- A read in a deframer channel's group. -/
theorem readReg_rx {s : State} {c k : Nat} {rc : RxChannel} (hc : c < 16) (hk : k < 0x10) (h : s.rx[c]? = some rc) :
    readReg s (0x500 + 0x10 * c + k) = readRx rc k := by
  have h1 : (0x500 + 0x10 * c + k - 0x500) / 0x10 = c := by omega
  have h2 : (0x500 + 0x10 * c + k) % 0x10 = k := by omega
  rw [readReg, if_neg (by omega), if_neg (by omega), if_pos (by omega), h1, h2, h]

/-- A write in a deframer channel's group. -/
theorem writeReg_rx {s : State} {c k : Nat} {rc : RxChannel} (v : Word) (hc : c < 16) (hk : k < 0x10)
    (h : s.rx[c]? = some rc) :
    writeReg s (0x500 + 0x10 * c + k) v = { s with rx := s.rx.set c (writeRx k v rc) } := by
  have h1 : (0x500 + 0x10 * c + k - 0x500) / 0x10 = c := by omega
  have h2 : (0x500 + 0x10 * c + k) % 0x10 = k := by omega
  rw [writeReg, if_neg (by omega), if_neg (by omega), if_pos (by omega), h1, h2, State.updateRx, modify_eq_set _ h]

/-- A read of a roster entry's two words. -/
theorem readReg_roster {s : State} {i k : Nat} (hk : k < 8) :
    readReg s (0x800 + 8 * i + k) = match s.roster[i]? with
      | some u => readRosterSlot u k
      | none => 0 := by
  have h1 : (0x800 + 8 * i + k - 0x800) / 8 = i := by omega
  have h2 : (0x800 + 8 * i + k) % 8 = k := by omega
  unfold readReg
  iterate 4 rw [if_neg (by omega)]
  rcases hr : s.roster[i]? with _ | u <;> simp only [h1, h2, hr]

end Sys2Proof.Machine
end

