-- ==== Sys2Proof/Tests/Slice0.lean ====
section
/-! SUPPORT. The model's own tests: the well-formedness smoke, one written-out word for every command, one-step tests from
95_test_vectors.md, and a witness for the hypotheses of every statement that has some. -/

namespace Sys2Proof.Tests

open Sys2Proof.Machine

/-! Well-formedness: one ill-formed term for each check (00_scope.md rule R9, 41_packet.md rule R186). -/

theorem test_build_is_wf : Config.build.wf = true := by decide
theorem test_no_port : ({ Config.build with ports := 0 } : Config).wf = false := by decide
theorem test_seventeen_ports : ({ Config.build with ports := 17 } : Config).wf = false := by decide
theorem test_no_buffer : ({ Config.build with bufBytes := 0 } : Config).wf = false := by decide
theorem test_buffer_above_4GiB : ({ Config.build with bufBytes := 2 ^ 32 + 1 } : Config).wf = false := by decide
theorem test_no_channel : ({ Config.build with rxChannels := 0 } : Config).wf = false := by decide
theorem test_seventeen_channels : ({ Config.build with rxChannels := 17 } : Config).wf = false := by decide
theorem test_no_roster : ({ Config.build with rosterCap := 0 } : Config).wf = false := by decide
theorem test_roster_256 : ({ Config.build with rosterCap := 256 } : Config).wf = false := by decide
theorem test_no_upq : ({ Config.build with upqDepth := 0 } : Config).wf = false := by decide
theorem test_no_downq : ({ Config.build with downqDepth := 0 } : Config).wf = false := by decide
theorem test_vendor_lo_82 : ({ Config.build with vendorLo := 0x82 } : Config).wf = false := by decide
theorem test_catalog_of_nineteen : Config.catalogWf (Config.exampleCatalog.take 19) = false := by decide
theorem test_catalog_with_vendor : Config.catalogWf (Config.exampleCatalog.set 0 .vend) = false := by decide
theorem test_catalog_with_odd_fix : Config.catalogWf (Config.exampleCatalog.set 0 (.fix 3)) = false := by decide
theorem test_catalog_with_long_fix : Config.catalogWf (Config.exampleCatalog.set 0 (.fix 131068)) = false := by decide
theorem test_catalog_without_obj : Config.catalogWf (Config.exampleCatalog.set 1 .var) = false := by decide
theorem test_catalog_without_mrk : Config.catalogWf (Config.exampleCatalog.set 2 .var) = false := by decide
theorem test_catalog_without_acc : Config.catalogWf (Config.exampleCatalog.set 3 .var) = false := by decide
theorem test_catalog_with_two_ver : Config.catalogWf (Config.exampleCatalog.set 0 .ver) = false := by decide

/-! Ill-formed latches (30_encoding.md rules R100, R101, R104). -/

theorem test_latch_reserved_bit : Latch.canonical ⟨0x00000100, 0, 0, 0, 0⟩ = false := by decide
theorem test_latch_unassigned_opcode : Latch.canonical ⟨0x00000005, 0, 0, 0, 0⟩ = false := by decide
theorem test_latch_a0_bit : Latch.canonical ⟨0x00000010, 0x100, 0, 0, 0⟩ = false := by decide
theorem test_latch_a1_bit : Latch.canonical ⟨0x00000030, 0, 0x10000, 0, 0⟩ = false := by decide
theorem test_latch_a2_bit : Latch.canonical ⟨0x00000002, 0, 0, 1, 0⟩ = false := by decide
theorem test_latch_a3_bit : Latch.canonical ⟨0x00000011, 0, 0, 0, 1⟩ = false := by decide

/-! One word of every command, written out from the opcodes and operand forms of 30_encoding.md rules R101 to R104 and
from the encodings printed with the programs of 95_test_vectors.md. -/

theorem test_decode_nop : decode ⟨0x00000000, 0, 0, 0, 0⟩ = .ok .nop := by decide
theorem test_decode_slip_enc :
    decode ⟨0x00000001, 0x00000000, 0x00000004, 0x00000100, 0x00000010⟩ = .ok (.slipEnc 0 4 0x100 16) := by decide
theorem test_decode_slip_dec : decode ⟨0x00000002, 0x20, 4, 0, 0⟩ = .ok (.slipDec 0x20 4) := by decide
theorem test_decode_slip_rx : decode ⟨0x00000003, 0x000000DB, 1, 0, 0⟩ = .ok (.slipRx 0xDB 1) := by decide
theorem test_decode_slip_rxclr : decode ⟨0x00000004, 5, 0, 0, 0⟩ = .ok (.slipRxclr 5) := by decide
theorem test_decode_type_class : decode ⟨0x00000010, 0xABCDEF41, 0, 0, 0⟩ = .ok (.typeClass 0x41) := by decide
theorem test_decode_pkt_ser :
    decode ⟨0x00000011, 0x00000000, 0x00000040, 0x00000020, 0⟩ = .ok (.pktSer 0 0x40 32) := by decide
theorem test_decode_pkt_parse :
    decode ⟨0x00000012, 0x00000100, 0x00000014, 0x00000140, 0x00000024⟩ = .ok (.pktParse 0x100 20 0x140 36) := by decide
theorem test_decode_mot_pack : decode ⟨0x00000013, 0x100, 0x200, 0, 0⟩ = .ok (.motPack 0x100 0x200) := by decide
theorem test_decode_mot_unpack : decode ⟨0x00000014, 0x200, 0x100, 0, 0⟩ = .ok (.motUnpack 0x200 0x100) := by decide
theorem test_decode_mrk_pack : decode ⟨0x00000015, 0x1000, 0x1001, 0, 0⟩ = .ok (.mrkPack 0 1) := by decide
theorem test_decode_mrk_unpack : decode ⟨0x00000016, 0xAB123456, 0, 0, 0⟩ = .ok (.mrkUnpack 0x123456) := by decide
theorem test_decode_conv_a2w : decode ⟨0x00000020, 0x411CE80A, 0, 0, 0⟩ = .ok (.convA2w 0x411CE80A) := by decide
theorem test_decode_conv_w2a : decode ⟨0x00000021, 0xFFFF0001, 0, 0, 0⟩ = .ok (.convW2a 1) := by decide
theorem test_decode_conv_g2w : decode ⟨0x00000022, 0x3F800000, 0, 0, 0⟩ = .ok (.convG2w 0x3F800000) := by decide
theorem test_decode_conv_w2g : decode ⟨0x00000023, 0xFFFFFFDB, 0, 0, 0⟩ = .ok (.convW2g 0xFFDB) := by decide
theorem test_decode_hub_attach :
    decode ⟨0x00000030, 0x04030201, 0x00000605, 0, 0⟩ = .ok (.hubAttach ⟨1, 2, 3, 4, 5, 6⟩) := by decide
theorem test_decode_hub_detach :
    decode ⟨0x00000031, 0x04030201, 0xFFFF0605, 0, 0⟩ = .ok (.hubDetach ⟨1, 2, 3, 4, 5, 6⟩) := by decide
theorem test_decode_hub_routeout :
    decode ⟨0x00000032, 0x04030201, 0x00000605, 0, 4⟩ = .ok (.hubRouteout ⟨1, 2, 3, 4, 5, 6⟩ 0 4) := by decide
theorem test_decode_hub_routein :
    decode ⟨0x00000033, 0x14131211, 0x00001615, 0, 4⟩ =
      .ok (.hubRoutein ⟨0x11, 0x12, 0x13, 0x14, 0x15, 0x16⟩ 0 4) := by decide
theorem test_decode_hub_request : decode ⟨0x00000034, 0, 0, 0, 0⟩ = .ok .hubRequest := by decide
theorem test_decode_hub_sub : decode ⟨0x00000035, 0, 0, 0, 0⟩ = .ok .hubSub := by decide
theorem test_decode_hub_unsub : decode ⟨0x00000036, 0, 0, 0, 0⟩ = .ok .hubUnsub := by decide
theorem test_decode_ctr_clr : decode ⟨0x0000003F, 0, 0, 0, 0⟩ = .ok .ctrClr := by decide
theorem test_decode_reserved : decode ⟨0x00000105, 0, 0, 0, 0⟩ = .error .reservedBits := by decide
theorem test_decode_unassigned : decode ⟨0x00000005, 0, 0, 0, 0⟩ = .error .unassignedOpcode := by decide

/-! One step: helpers. -/

/-- `s` with the command pending on port 0, and the Engine's pick of port 0 next. -/
def pend (i : Instr) (s : State) : State :=
  { s with
    ports := [{ Port.reset with latch := encode i, pending := true }, Port.reset]
    agenda := [.engine 0] }

/-- The reset state with bytes at an offset of BUF. -/
def holding (a : Nat) (bs : List Byte) : State := { State.reset with buf := cellsFrom a bs }

/-- The reset state with one deframer channel. -/
def channel (c : RxChannel) (buf : Memory) : State := { State.reset with rx := [c], buf := buf }

/-- The reset state with a roster. -/
def hub (roster : List Uuid) (subscribed : Bool) : State :=
  { State.reset with roster := roster, subscribed := subscribed }

/-- CODE, RES0 and RES1 after the command. -/
def result (i : Instr) (s : State) : Option (StatusCode × Word × Word) :=
  match step (pend i s) with
  | .next t => t.ports.head?.map fun pt => (pt.code, pt.res0, pt.res1)
  | _ => none

/-- The bytes from an offset of BUF after the command, none if one is Unknown. -/
def output (i : Instr) (s : State) (a n : Nat) : Option (List Byte) :=
  match step (pend i s) with
  | .next t =>
    match t.buf.read a n with
    | .ok bs => some bs
    | .error _ => none
  | _ => none

/-- What a command pushes on UpQ. -/
def pushed (i : Instr) (s : State) : Option (List UpEntry) :=
  match step (pend i s) with
  | .next t => some t.upQ
  | _ => none

def uA : Uuid := ⟨0x01, 0x02, 0x03, 0x04, 0x05, 0x06⟩
def uB : Uuid := ⟨0x11, 0x12, 0x13, 0x14, 0x15, 0x16⟩
def uC : Uuid := ⟨0x21, 0x22, 0x23, 0x24, 0x25, 0x26⟩
def uD : Uuid := ⟨0x31, 0x32, 0x33, 0x34, 0x35, 0x36⟩

/-- The host record of V-SER-1. -/
def serRecord : List Byte := [3, 7, 0x12345678, 2048, 0xFFFFFFFF, 0, 16, 0xFFFFFFF0, 0x7FFF].flatMap le32

/-- The packet of V-SER-1. -/
def serPacket : List Byte :=
  [0x0A, 0x00, 0x03, 0x07, 0x78, 0x56, 0x34, 0x12, 0x00, 0x08, 0xFF, 0xFF, 0x00, 0x00, 0x10, 0x00, 0xF0, 0xFF, 0xFF, 0x7F]

/-- V-SER-3's record, of which only the first 16 + LEN bytes are Known. -/
def vendorRecord : List Byte := [0x80, 1, 5, 3].flatMap le32 ++ [0xC0, 0xDB, 0x11]

/-- V-SER-5's record. -/
def fixRecord : List Byte := [6, 0, 2].flatMap le32 ++ [0xAA, 0xBB]

/-- V-SER-7's record. -/
def varRecord : List Byte := [5, 9, 0].flatMap le32

/-- The host record of vector L1.2. -/
def motWords : List Byte := [0x1234, 3004, 291, 0x80, 0xFF, 10, 5, 0, 127, 0, 127, 1, 2, 3].flatMap le32

/-- The sixteen bytes of vector L1.2. -/
def motBytes : List Byte :=
  [0x34, 0x12, 0xBC, 0x0B, 0x23, 0x01, 0x80, 0xFF, 0xA5, 0x00, 0x7F, 0x00, 0x7F, 0x01, 0x02, 0x03]

/-! One step: the vectors of 95_test_vectors.md, each named by its id there. -/

theorem test_nop_clears_code : result .nop State.reset = some (.ok, 0, 0) := by decide
theorem test_slip_enc_5 :
    output (.slipEnc 0 4 0x100 16) (holding 0 [0x01, 0xC0, 0xDB, 0x02]) 0x100 7 =
      some [0x01, 0xDB, 0xDC, 0xDB, 0xDD, 0x02, 0xC0] := by decide
theorem test_slip_enc_7 :
    result (.slipEnc 0 2 0x100 4) (holding 0 [0xC0, 0xC0]) = some (.notEnoughCapacity, 5, 0) := by decide
theorem test_slip_dec_5 :
    output (.slipDec 0x200 6) (holding 0x200 [0x01, 0xDB, 0xDC, 0xDB, 0xDD, 0x02]) 0x200 6 =
      some [0x01, 0xC0, 0xDB, 0x02, 0xDD, 0x02] := by decide
theorem test_slip_dec_10 :
    result (.slipDec 0x200 5) (holding 0x200 [0xDB, 0xDD, 0xDB, 0xDB, 0xDC]) = some (.doubleEsc, 2, 0) := by decide
theorem test_slip_rx_1_end :
    result (.slipRx 0xC0 0) (channel ⟨0x300, 8, 3, false⟩ (cellsFrom 0x300 [0x41, 0xDB, 0xDC])) = some (.ok, 2, 1) := by
  decide
theorem test_slip_rx_5 : result (.slipRx 0x41 0) State.reset = some (.rxOverflow, 0, 0) := by decide
theorem test_slip_rxclr_ok : result (.slipRxclr 0) State.reset = some (.ok, 0, 0) := by decide
theorem test_slip_rxclr_5 : result (.slipRxclr 5) State.reset = some (.badChannel, 5, 0) := by decide
theorem test_type_class_obj : result (.typeClass 0x01) State.reset = some (.ok, 1, 0x00020601) := by decide
theorem test_type_class_invalid : result (.typeClass 0x15) State.reset = some (.unrecognizedPacketId, 0x15, 0) := by decide
theorem test_pkt_ser_1 : output (.pktSer 0 0x400 256) (holding 0 serRecord) 0x400 20 = some serPacket := by decide
theorem test_pkt_ser_9 : result (.pktSer 0 0x400 256) (holding 0 [0x14, 0, 0, 0, 0, 0, 0, 0]) = some (.notSendable, 0x14, 0) := by
  decide
theorem test_pkt_parse_1 :
    output (.pktParse 0x400 20 0x800 2048) (holding 0x400 serPacket) 0x800 36 = some serRecord := by decide
theorem test_pkt_parse_6 :
    result (.pktParse 0x400 19 0x800 2048) (holding 0x400 (serPacket.take 19)) = some (.unexpectedEof, 3, 0) := by decide
theorem test_mot_pack_1 : output (.motPack 0 0x400) (holding 0 motWords) 0x400 16 = some motBytes := by decide
theorem test_mot_pack_6 : result (.motPack 0 0x30) State.reset = some (.overlap, 0, 0) := by decide
theorem test_mot_unpack_1 : output (.motUnpack 0 0x400) (holding 0 motBytes) 0x400 56 = some motWords := by decide
theorem test_mot_unpack_5 :
    output (.motUnpack 0 0x400) (holding 0 (motBytes.set 3 0xFB)) 0x404 4 = some [0xBC, 0x0B, 0x00, 0x00] := by decide
theorem test_mrk_pack_1 : result (.mrkPack 2048 17) State.reset = some (.ok, 0x00011800, 0) := by decide
theorem test_mrk_pack_2 : result (.mrkPack 1 2048) State.reset = some (.ok, 0x00800001, 0) := by decide
theorem test_mrk_unpack_4 : result (.mrkUnpack 0x123456) State.reset = some (.ok, 0x456, 0x123) := by decide
theorem test_conv_a2w_1 : result (.convA2w 0x411CE80A) State.reset = some (.ok, 0x800, 0) := by decide
theorem test_conv_a2w_3 : result (.convA2w 0xBF800000) State.reset = some (.ok, 0xFFFFFF30, 0) := by decide
theorem test_conv_w2a_11 : result (.convW2a 100) State.reset = some (.ok, 0x3EF52A8F, 0) := by decide
theorem test_conv_w2a_12 : result (.convW2a 0x8000) State.reset = some (.ok, 0xC31CE80A, 0) := by decide
theorem test_conv_g2w_15 : result (.convG2w 0xBF800000) State.reset = some (.ok, 0xFFFFFC55, 0) := by decide
theorem test_conv_g2w_17 : result (.convG2w 0x420B999A) State.reset = some (.ok, 0x7FFF, 0) := by decide
theorem test_conv_w2g_20 : result (.convW2g 0xFFF0) State.reset = some (.ok, 0xBC8B7D78, 0) := by decide
theorem test_conv_w2g_21 : result (.convW2g 0x3AB) State.reset = some (.ok, 0x3F7FD29C, 0) := by decide
theorem test_hub_attach_6 : pushed (.hubAttach uB) (hub [uA] true) = some [.devicesSnapshot [uA, uB]] := by decide
theorem test_hub_attach_8 : result (.hubAttach uD) (hub [uA, uB, uC] true) = some (.rosterFull, 3, 0) := by decide
theorem test_hub_detach_10 : pushed (.hubDetach uB) (hub [uA, uB, uC] true) = some [.devicesSnapshot [uA, uC]] := by decide
theorem test_hub_detach_3 : result (.hubDetach uB) (hub [uA] false) = some (.ok, 0, 1) := by decide
theorem test_hub_routeout_17 : result (.hubRouteout uA 0 4) (hub [uC, uB] false) = some (.ok, 0, 0) := by decide
theorem test_hub_routeout_19 : result (.hubRouteout uC 0xFFFE 4) (hub [uC, uB] false) = some (.badAddress, 2, 0) := by decide
theorem test_hub_routein_16 :
    pushed (.hubRoutein uD 0 4) (holding 0 [0x02, 0x00, 0x05, 0x01]) =
      some [.devicePacket uD [0x02, 0x00, 0x05, 0x01]] := by decide
theorem test_hub_request_15 : pushed .hubRequest (hub [uC, uB] false) = some [.devicesSnapshot [uC, uB]] := by decide
theorem test_hub_sub_5 : result .hubSub (hub [uA] true) = some (.ok, 1, 0) := by decide
theorem test_hub_unsub_12 : pushed .hubUnsub (hub [uA] true) = some [] := by decide
theorem test_ctr_clr_2 : result .ctrClr State.reset = some (.ok, 0, 0) := by decide

/-- V-CTL-5: the reserved bits are checked before the operands. -/
theorem test_illegal_word :
    step (State.reset.withFetchWord 32 0x00000101) =
      .next { State.reset with
        ports := [⟨0, 0, 0, 0, .illegalCommand, false, false, 0x101, 0, ⟨0x101, 0, 0, 0, 0⟩⟩, Port.reset] } := rfl

/-- Section 2.6: INFO, BUFSIZE, and the model fault of a read of BUF after reset. -/
theorem test_reset_info : readReg State.reset 0x400 = 0x80030102 ∧ readReg State.reset 0x404 = 0x00010000 := by decide
theorem test_reset_read_of_buf :
    step { State.reset with agenda := [.host 0 (.bufRead 0 1)] } = .fault (.unknownRead 0) := rfl

/-- P5: after the first write of a program with no `wait`, the second one overruns, and `wait` stays while NOP is pending. -/
theorem test_missing_wait :
    (match step { pend .nop State.reset with program := asmWr 0 0 5 ++ asmWait 0, agenda := [.program] } with
      | .next t => (t.ports.head?.map (·.overrun), t.program)
      | _ => (none, [])) = (some true, [.wait 0]) := by decide
theorem test_wait_stays_while_pending :
    (match step { pend .nop State.reset with program := asmWait 0, agenda := [.program] } with
      | .next t => (t.hostReads, t.program)
      | _ => ([], [])) = ([(0, 0x100)], [.wait 0]) := by decide

/-! Witnesses: for each statement of the obligations that has hypotheses, a concrete state and operands that meet them all
together, at boundary values of each clause. A theorem is named after its statement. -/

/-- The reset state with a plan. -/
def plan (ag : List AgentStep) : State := { State.reset with agenda := ag }

theorem holds_cells (a : Nat) (bs : List Byte) : (cellsFrom a bs).Holds a bs := by
  intro i b h
  rw [Memory.lookup_cellsFrom, if_pos (by omega), Nat.add_sub_cancel_left, h]

theorem holding_holds (a : Nat) (bs : List Byte) : (holding a bs).buf.Holds a bs := holds_cells a bs

/-- Each part of a run of cells holds its bytes. -/
theorem cells_hold (a : Nat) (x y z : List Byte) : (cellsFrom a (x ++ y ++ z)).Holds (a + x.length) y := by
  intro i b h
  have hi : i < y.length := (List.getElem?_eq_some_iff.1 h).1
  rw [Memory.lookup_cellsFrom, if_pos (by omega), show a + x.length + i - a = x.length + i by omega,
    List.append_assoc, List.getElem?_append_right (by omega), List.getElem?_append_left (by omega)]
  simpa using h

/-- The cell after a run of cells is the first Unknown one of a range that begins in the run and goes past it. -/
theorem cells_firstUnknown (a : Nat) (bs : List Byte) (b n : Nat) (h1 : a ≤ b) (h2 : b ≤ a + bs.length)
    (h3 : a + bs.length < b + n) : (cellsFrom a bs).FirstUnknown b n (a + bs.length) := by
  refine ⟨h2, h3, ?_, fun y hy hy' => ?_⟩
  · rw [Memory.lookup_cellsFrom, if_pos (by omega)]
    exact List.getElem?_eq_none (by omega)
  · rw [Memory.lookup_cellsFrom, if_pos (by omega), List.getElem?_eq_getElem (by omega)]
    exact Option.some_ne_none _

/-- The reset state, with any plan and with a command pending, keeps the invariants. -/
theorem pend_inv (i : Instr) : (pend i State.reset).Inv where
  cfg_wf := test_build_is_wf
  ports_length := rfl
  rx_length := rfl
  roster_length := Nat.zero_le _
  roster_nodup := List.nodup_nil
  upQ_length := Nat.zero_le _
  downQ_length := Nat.zero_le _
  rx_good := fun c hc => by
    obtain rfl : c = RxChannel.reset := by
      simpa [pend, State.reset, State.resetOf, Config.build] using hc
    exact Nat.zero_le _
  buf_wf := rfl
  buf_bound := fun _ hc => absurd hc List.not_mem_nil

theorem witness_CanonicalLatchIsItsEncoding :
    Latch.canonical ⟨0x00000016, 0x00FFFFFF, 0, 0, 0⟩ = true ∧
      Latch.canonical ⟨0x00000033, 0xFFFFFFFF, 0x0000FFFF, 0xFFFFFFFF, 0xFFFFFFFF⟩ = true := by decide

theorem witness_UnnamedOperandBitsAreIgnored :
    let l : Latch := ⟨0x00000015, 0x00000FFF, 0, 0, 0⟩
    let l' : Latch := ⟨0x00000015, 0xFFFFFFFF, 0x1000, 1, 0xFFFFFFFF⟩
    let w : OperandWidths := ⟨12, 12, 0, 0⟩
    l.lop = l'.lop ∧ operandWidths (l.lop.setWidth 8) = some w ∧
      l.a0.toNat % 2 ^ w.w0 = l'.a0.toNat % 2 ^ w.w0 ∧ l.a1.toNat % 2 ^ w.w1 = l'.a1.toNat % 2 ^ w.w1 ∧
      l.a2.toNat % 2 ^ w.w2 = l'.a2.toNat % 2 ^ w.w2 ∧ l.a3.toNat % 2 ^ w.w3 = l'.a3.toNat % 2 ^ w.w3 := by decide

/-- A pending port, one with nothing pending, and the first number that is no port. -/
theorem witness_EngineStepRunsTheLatchedCommand :
    (let s := pend .hubSub State.reset
     ∃ pt, s.agenda = .engine 0 :: [] ∧ s.ports[0]? = some pt ∧ pt.pending = true ∧ decode pt.latch = .ok .hubSub) ∧
    (let s := plan [.engine 1]
     s.agenda = .engine 1 :: [] ∧ ∃ pt, s.ports[1]? = some pt ∧ pt.pending = false) ∧
    (let s := plan [.engine 2]
     s.agenda = .engine 2 :: [] ∧ s.ports[2]? = none) :=
  ⟨⟨_, rfl, rfl, rfl, rfl⟩, ⟨rfl, _, rfl, rfl⟩, rfl, rfl⟩

/-- Both ways a word is illegal: the lowest reserved bit, and the lowest opcode the table does not list. -/
theorem witness_IllegalWordCompletesWithIllegalCommand :
    let s (w : Nat) := State.reset.withFetchWord 32 w
    (∃ pt, (s 0x101).agenda = .engine 0 :: [] ∧ (s 0x101).ports[0]? = some pt ∧ pt.pending = true ∧
      pt.latch.lop.extractLsb' 8 24 ≠ 0) ∧
    ∃ pt, (s 0x05).agenda = .engine 0 :: [] ∧ (s 0x05).ports[0]? = some pt ∧ pt.pending = true ∧
      pt.latch.lop.toNat % 256 ∉ [0x00, 0x01, 0x02, 0x03, 0x04, 0x10, 0x11, 0x12, 0x13, 0x14, 0x15, 0x16, 0x20, 0x21,
        0x22, 0x23, 0x30, 0x31, 0x32, 0x33, 0x34, 0x35, 0x36, 0x3F] :=
  ⟨⟨_, rfl, rfl, rfl, by decide⟩, ⟨_, rfl, rfl, rfl, by decide⟩⟩

theorem witness_EveryStepKeepsTheInvariants :
    (pend .hubSub State.reset).Inv ∧ ∃ t, step (pend .hubSub State.reset) = .next t := ⟨pend_inv _, _, rfl⟩

theorem witness_ResetHasTheInvariants : Config.build.wf = true := by decide

theorem witness_ResetEventResetsTheWholeBlock : (plan [.reset, .engine 0]).agenda = .reset :: [.engine 0] := rfl

theorem witness_NoStepChangesTheConfiguration : ∃ t, step (plan [.host 0 (.regWrite 0x500 4 8)]) = .next t := ⟨_, rfl⟩

theorem witness_CommandLeavesOtherBanksAndArgumentsAlone :
    ∃ t pt, exec .hubSub (pend .hubSub State.reset) = .next t ∧
      (pend .hubSub State.reset).ports[(pend .hubSub State.reset).served]? = some pt := ⟨_, _, rfl, rfl⟩

/-- A command that completes, and one that is held: UPQ_DEPTH 1 and one entry in UpQ. -/
theorem witness_CommandCompletesOrIsHeld :
    (∃ t, exec .nop State.reset = .next t) ∧
    ∃ t, exec .hubRequest { State.reset with
      cfg := { Config.build with upqDepth := 1 }, upQ := [.devicesSnapshot []] } = .next t := ⟨⟨_, rfl⟩, ⟨_, rfl⟩⟩

theorem witness_ErrorsChangeNoHubStateAndWriteNoByte :
    let s := pend (.slipRxclr 1) State.reset
    ∃ t pt, exec (.slipRxclr 1) s = .next t ∧ s.ports[s.served]? = some pt ∧ pt.pending = true ∧
      s.Completes t .badChannel 1 0 ∧ StatusCode.badChannel ≠ .ok :=
  ⟨_, _, rfl, rfl, rfl, State.complete_completes rfl rfl _ _ _, by decide⟩

theorem witness_OnlyHubCommandsChangeTheHub :
    (∃ t, exec (.hubAttach uA) State.reset = .next t ∧ t.roster ≠ State.reset.roster) ∧
    (∃ t, exec .hubSub State.reset = .next t ∧ t.subscribed ≠ State.reset.subscribed) ∧
    (∃ t, exec .hubUnsub (hub [] true) = .next t ∧ t.subscribed ≠ (hub [] true).subscribed) ∧
    ∃ t, agentStep .upstream (hub [uA] true) = .next t :=
  ⟨⟨_, rfl, by decide⟩, ⟨_, rfl, by decide⟩, ⟨_, rfl, by decide⟩, ⟨_, rfl⟩⟩

theorem witness_QueuesDeliverInPushOrder :
    ∃ t, step (pend .hubSub State.reset) = .next t ∧ (pend .hubSub State.reset).agenda.head? ≠ some .reset :=
  ⟨_, rfl, by decide⟩

theorem witness_CommandStopsOnlyAtAnUnknownCell :
    (pend (.slipDec 0xFFFF 1) State.reset).Inv ∧
      exec (.slipDec 0xFFFF 1) (pend (.slipDec 0xFFFF 1) State.reset) = .fault (.unknownRead 0xFFFF) :=
  ⟨pend_inv _, rfl⟩

/-- The clauses of the commands that read one range: in each range only the last cell is Unknown, the ranges of SLIP.DEC
and the MotData commands ending at the end of BUF. -/
theorem witness_CommandStopsAtAnUnknownCell_ranges :
    (let s : State := { holding 65534 [7] with roster := [uA] }
     (65534 : Word).toNat + (2 : Word).toNat ≤ s.cfg.bufBytes ∧
      s.buf.FirstUnknown (65534 : Word).toNat (2 : Word).toNat 65535 ∧
      ((0 : Word).toNat + (4 : Word).toNat ≤ s.cfg.bufBytes ∧
        Apart (65534 : Word).toNat (2 : Word).toNat (0 : Word).toNat (4 : Word).toNat) ∧
      uA ∈ s.roster ∧ s.downQ.length ≠ s.cfg.downqDepth ∧ s.upQ.length ≠ s.cfg.upqDepth) ∧
    ((65480 : Word).toNat + 56 ≤ Config.build.bufBytes ∧ (0 : Word).toNat + 16 ≤ Config.build.bufBytes ∧
      Apart (65480 : Word).toNat 56 (0 : Word).toNat 16 ∧
      (holding 65480 motWords.dropLast).buf.FirstUnknown (65480 : Word).toNat 56 65535) ∧
    ((65520 : Word).toNat + 16 ≤ Config.build.bufBytes ∧ (0 : Word).toNat + 56 ≤ Config.build.bufBytes ∧
      Apart (65520 : Word).toNat 16 (0 : Word).toNat 56 ∧
      (holding 65520 motBytes.dropLast).buf.FirstUnknown (65520 : Word).toNat 16 65535) ∧
    (let c : RxChannel := ⟨0x300, 8, 2, false⟩
     let s := channel c (cellsFrom 0x300 [0xDB])
     s.rx[(0 : Word).toNat]? = some c ∧ c.base.toNat + c.cap.toNat ≤ s.cfg.bufBytes ∧ c.dropping = false ∧
      s.buf.FirstUnknown c.base.toNat c.len.toNat 0x301) :=
  ⟨⟨by decide, cells_firstUnknown 65534 [7] _ _ (by decide) (by decide) (by decide),
      ⟨by decide, .inr (.inr (.inr (by decide)))⟩, by decide, by decide, by decide⟩,
    ⟨by decide, by decide, .inr (.inr (.inr (by decide))),
      cells_firstUnknown 65480 motWords.dropLast _ _ (by decide) (by decide) (by decide)⟩,
    ⟨by decide, by decide, .inr (.inr (.inr (by decide))),
      cells_firstUnknown 65520 motBytes.dropLast _ _ (by decide) (by decide) (by decide)⟩,
    ⟨rfl, by decide, rfl, cells_firstUnknown 0x300 [0xDB] _ _ (by decide) (by decide) (by decide)⟩⟩

/-- PKT.SER's clauses, the last cell of each read Unknown: the first 8 bytes, an opaque LEN, a vendor LEN, a whole ACC
record, a FIX and a VAR one, and vendor data. -/
theorem witness_CommandStopsAtAnUnknownCell_pktSer :
    ((0 : Word).toNat + 8 ≤ Config.build.bufBytes ∧
      (holding 0 (serRecord.take 7)).buf.FirstUnknown (0 : Word).toNat 8 7) ∧
    (let s := holding 0 (varRecord.take 8 ++ [0, 0, 0])
     (varRecord.take 8).length = 8 ∧ s.buf.Holds (0 : Word).toNat (varRecord.take 8) ∧
      sendKind s.cfg (classify s.cfg (byteAt (varRecord.take 8) 0)) = some .var ∧ Kind.var ≠ .vend ∧
      Kind.var.described = false ∧ (0 : Word).toNat + 12 ≤ s.cfg.bufBytes ∧
      s.buf.FirstUnknown ((0 : Word).toNat + 8) 4 11) ∧
    (let s := holding 0 (vendorRecord.take 8 ++ [5, 0, 0, 0, 3, 0, 0])
     (vendorRecord.take 8).length = 8 ∧ s.buf.Holds (0 : Word).toNat (vendorRecord.take 8) ∧
      sendKind s.cfg (classify s.cfg (byteAt (vendorRecord.take 8) 0)) = some .vend ∧
      (0 : Word).toNat + hostSize .vend (0 : Word).toNat ≤ s.cfg.bufBytes ∧
      (114 : Word).toNat + (104 : Word).toNat ≤ s.cfg.bufBytes ∧
      Apart (0 : Word).toNat (hostSize .vend (0 : Word).toNat) (114 : Word).toNat (104 : Word).toNat ∧
      s.buf.FirstUnknown ((0 : Word).toNat + 12) 4 15) ∧
    (let s := holding 0 (serRecord.take 8 ++ (serRecord.drop 8).dropLast)
     (serRecord.take 8).length = 8 ∧ s.buf.Holds (0 : Word).toNat (serRecord.take 8) ∧
      sendKind s.cfg (classify s.cfg (byteAt (serRecord.take 8) 0)) = some .acc ∧ Kind.acc.described = true ∧
      (0 : Word).toNat + hostSize .acc (0 : Word).toNat ≤ s.cfg.bufBytes ∧
      (36 : Word).toNat + (20 : Word).toNat ≤ s.cfg.bufBytes ∧
      Apart (0 : Word).toNat (hostSize .acc (0 : Word).toNat) (36 : Word).toNat (20 : Word).toNat ∧
      4 + payloadLen .acc (0 : Word).toNat ≤ (20 : Word).toNat ∧
      s.buf.FirstUnknown (0 : Word).toNat (hostSize .acc (0 : Word).toNat) 35) ∧
    (∀ q ∈ [((6 : Word), Kind.fix 2), (5, .var)],
      let h := [q.1, 9].flatMap le32
      let s := holding 0 (h ++ le32 2 ++ [0xAA])
      h.length = 8 ∧ s.buf.Holds (0 : Word).toNat h ∧ sendKind s.cfg (classify s.cfg (byteAt h 0)) = some q.2 ∧
        s.buf.Holds ((0 : Word).toNat + 8) (le32 2) ∧
        (0 : Word).toNat + hostSize q.2 (2 : Word).toNat ≤ s.cfg.bufBytes ∧
        (14 : Word).toNat + (6 : Word).toNat ≤ s.cfg.bufBytes ∧
        Apart (0 : Word).toNat (hostSize q.2 (2 : Word).toNat) (14 : Word).toNat (6 : Word).toNat ∧
        4 + payloadLen q.2 (2 : Word).toNat ≤ (6 : Word).toNat ∧
        (q.2.described = true ∨ q.2 = .fix (2 : Word).toNat ∨
          (q.2 = .var ∧ (2 : Word).toNat % 2 = 0 ∧ (2 : Word).toNat ≤ 131066)) ∧
        s.buf.FirstUnknown (0 : Word).toNat (hostSize q.2 (2 : Word).toNat) 13) ∧
    (let s := holding 0 (vendorRecord.take 12 ++ le32 3 ++ [0xC0, 0xDB])
     s.buf.Holds (0 : Word).toNat (vendorRecord.take 12) ∧
      s.buf.Holds ((0 : Word).toNat + 12) (le32 3) ∧ (3 : Word).toNat ≤ 98 ∧
      4 + payloadLen .vend (3 : Word).toNat ≤ (104 : Word).toNat ∧
      s.buf.FirstUnknown (0 : Word).toNat (16 + (3 : Word).toNat) 18) := by
  refine ⟨⟨by decide, cells_firstUnknown 0 (serRecord.take 7) _ _ (by decide) (by decide) (by decide)⟩,
    ⟨rfl, cells_hold 0 [] _ _, rfl, by decide, rfl, by decide,
      cells_firstUnknown 0 (varRecord.take 8 ++ [0, 0, 0]) _ _ (by decide) (by decide) (by decide)⟩,
    ⟨rfl, cells_hold 0 [] _ _, rfl, by decide, by decide, .inr (.inr (.inl (by decide))),
      cells_firstUnknown 0 (vendorRecord.take 8 ++ [5, 0, 0, 0, 3, 0, 0]) _ _ (by decide) (by decide) (by decide)⟩,
    ⟨rfl, cells_hold 0 [] _ _, rfl, rfl, by decide, by decide, .inr (.inr (.inl (by decide))), by decide,
      cells_firstUnknown 0 (serRecord.take 8 ++ (serRecord.drop 8).dropLast) _ _ (by decide) (by decide) (by decide)⟩,
    ?_,
    ⟨cells_hold 0 [] _ _, cells_hold 0 (vendorRecord.take 12) (le32 3) [0xC0, 0xDB], by decide, by decide,
      cells_firstUnknown 0 (vendorRecord.take 12 ++ le32 3 ++ [0xC0, 0xDB]) _ _ (by decide) (by decide) (by decide)⟩⟩
  simp only [List.mem_cons, List.not_mem_nil, or_false, forall_eq_or_imp, forall_eq]
  refine ⟨⟨rfl, cells_hold 0 [] _ _, rfl, cells_hold 0 ([6, 9].flatMap le32) (le32 2) [0xAA], by decide, by decide,
      .inr (.inr (.inl (by decide))), by decide, .inr (.inl rfl),
      cells_firstUnknown 0 ([6, 9].flatMap le32 ++ le32 2 ++ [0xAA]) _ _ (by decide) (by decide) (by decide)⟩,
    ⟨rfl, cells_hold 0 [] _ _, rfl, cells_hold 0 ([5, 9].flatMap le32) (le32 2) [0xAA], by decide, by decide,
      .inr (.inr (.inl (by decide))), by decide, .inr (.inr ⟨trivial, by decide, by decide⟩),
      cells_firstUnknown 0 ([5, 9].flatMap le32 ++ le32 2 ++ [0xAA]) _ _ (by decide) (by decide) (by decide)⟩⟩

/-- PKT.PARSE's clauses: the type byte, the word-count of a VAR packet, the id byte, and the last payload byte of an ACC
and of a VAR packet. -/
theorem witness_CommandStopsAtAnUnknownCell_pktParse :
    ((0 : Word).toNat + (20 : Word).toNat ≤ Config.build.bufBytes ∧
      (20 : Word).toNat + (36 : Word).toNat ≤ Config.build.bufBytes ∧
      Apart (0 : Word).toNat (20 : Word).toNat (20 : Word).toNat (36 : Word).toNat ∧ 3 ≤ (20 : Word).toNat ∧
      (holding 0 [0x0A, 0x00]).buf.FirstUnknown ((0 : Word).toNat + 2) 1 2) ∧
    ((holding 2 [5]).buf.lookup ((0 : Word).toNat + 2) = some 5 ∧
      sendKind Config.build (classify Config.build 5) = some .var ∧
      (holding 2 [5]).buf.FirstUnknown (0 : Word).toNat 2 0) ∧
    ((holding 2 [3]).buf.lookup ((0 : Word).toNat + 2) = some 3 ∧
      sendKind Config.build (classify Config.build 3) = some .acc ∧ Kind.acc ≠ .var ∧
      4 + payloadLen .acc (2 * (0 : Half).toNat - 4) ≤ (20 : Word).toNat ∧
      (holding 2 [3]).buf.FirstUnknown ((0 : Word).toNat + 3) (1 + payloadLen .acc (2 * (0 : Half).toNat - 4)) 3 ∧
      (holding 2 (serPacket.drop 2).dropLast).buf.lookup ((0 : Word).toNat + 2) = some 3 ∧
      (holding 2 (serPacket.drop 2).dropLast).buf.FirstUnknown ((0 : Word).toNat + 3)
        (1 + payloadLen .acc (2 * (0 : Half).toNat - 4)) 19) ∧
    (let s := holding 0 (le16 3 ++ [5, 9, 0xAA])
     s.buf.lookup ((0 : Word).toNat + 2) = some 5 ∧ 2 ≤ (3 : Half).toNat ∧ s.buf.Holds (0 : Word).toNat (le16 3) ∧
      4 + payloadLen .var (2 * (3 : Half).toNat - 4) ≤ (6 : Word).toNat ∧
      s.buf.FirstUnknown ((0 : Word).toNat + 3) (1 + payloadLen .var (2 * (3 : Half).toNat - 4)) 5) :=
  ⟨⟨by decide, by decide, .inr (.inr (.inl (by decide))), by decide,
      cells_firstUnknown 0 [0x0A, 0x00] _ _ (by decide) (by decide) (by decide)⟩,
    ⟨rfl, rfl, by decide, by decide, rfl, fun y _ h => absurd h (Nat.not_lt_zero y)⟩,
    ⟨rfl, rfl, by decide, by decide, cells_firstUnknown 2 [3] _ _ (by decide) (by decide) (by decide), rfl,
      cells_firstUnknown 2 (serPacket.drop 2).dropLast _ _ (by decide) (by decide) (by decide)⟩,
    ⟨rfl, by decide, cells_hold 0 [] _ _, by decide,
      cells_firstUnknown 0 (le16 3 ++ [5, 9, 0xAA]) _ _ (by decide) (by decide) (by decide)⟩⟩

/-- Each clause: a width other than 4, an offset that is not aligned, a range one byte past BUF, and an Unknown cell first
and last in the range read. -/
theorem witness_HostAccessesThatStop :
    0 < State.reset.ports.length ∧ ((2 : Nat) ≠ 4 ∨ 0 % 4 ≠ 0) ∧ ((4 : Nat) ≠ 4 ∨ 2 % 4 ≠ 0) ∧
      (plan [.host 0 (.regRead 0 2)]).agenda = .host 0 (.regRead 0 2) :: [] ∧
      (plan [.host 0 (.regWrite 2 4 0)]).agenda = .host 0 (.regWrite 2 4 0) :: [] ∧
      State.reset.cfg.bufBytes < 65533 + 4 ∧
      (plan [.host 0 (.bufRead 65533 4)]).agenda = .host 0 (.bufRead 65533 4) :: [] ∧
      (plan [.host 0 (.bufWrite 65533 4 0)]).agenda = .host 0 (.bufWrite 65533 4 0) :: [] ∧
      65532 + 4 ≤ State.reset.cfg.bufBytes ∧
      (State.reset.buf.lookup (65532 + 0) = none ∧ ∀ j, j < 0 → State.reset.buf.lookup (65532 + j) ≠ none) ∧
      ((holding 65532 [1, 2, 3]).buf.lookup (65532 + 3) = none ∧
        ∀ j, j < 3 → (holding 65532 [1, 2, 3]).buf.lookup (65532 + j) ≠ none) := by decide

/-- PENDING 0 and PENDING 1, the first and the last port of sixteen. -/
theorem witness_CmdWriteLatchesOrOverruns :
    (∃ pt, 1 < State.reset.ports.length ∧ 0 < 16 ∧ (plan [.host 1 (.regWrite (0x40 * 0) 4 5)]).ports[0]? = some pt ∧
      pt.pending = false ∧
      (plan [.host 1 (.regWrite (0x40 * 0) 4 5)]).agenda = .host 1 (.regWrite (0x40 * 0) 4 5) :: []) ∧
    (∃ pt, (pend .nop State.reset).ports[0]? = some pt ∧ pt.pending = true) ∧
    (plan [.host 1 (.regRead (0x40 * 1) 4)]).agenda = .host 1 (.regRead (0x40 * 1) 4) :: [] ∧
    ∃ pt, (State.resetOf { Config.build with ports := 16 }).ports[15]? = some pt :=
  ⟨⟨_, by decide, by decide, rfl, rfl, rfl⟩, ⟨_, rfl, rfl⟩, rfl, ⟨_, rfl⟩⟩

theorem witness_StatusRegisterFields :
    ∃ pt, 0 < State.reset.ports.length ∧ 1 < 16 ∧ (plan [.host 0 (.regRead (0x40 * 1 + 4) 4)]).ports[1]? = some pt ∧
      (plan [.host 0 (.regRead (0x40 * 1 + 0x18) 4)]).agenda = .host 0 (.regRead (0x40 * 1 + 0x18) 4) :: [] ∧
      (plan [.host 0 (.regRead (0x40 * 1 + 0x1C) 4)]).agenda = .host 0 (.regRead (0x40 * 1 + 0x1C) 4) :: [] ∧
      (plan [.host 0 (.regRead (0x40 * 1 + 4) 4)]).agenda = .host 0 (.regRead (0x40 * 1 + 4) 4) :: [] ∧
      (plan [.host 0 (.regWrite (0x40 * 1 + 4) 4 0x200)]).agenda = .host 0 (.regWrite (0x40 * 1 + 4) 4 0x200) :: [] :=
  ⟨_, by decide, by decide, rfl, rfl, rfl, rfl, rfl⟩

theorem witness_ArgRegistersHoldWhatTheHostWrites :
    ∃ pt, 0 < State.reset.ports.length ∧ 1 < 16 ∧ 3 < 4 ∧
      (plan [.host 0 (.regWrite (0x40 * 1 + 8 + 4 * 3) 4 7)]).ports[1]? = some pt ∧
      (plan [.host 0 (.regWrite (0x40 * 1 + 8 + 4 * 3) 4 7)]).agenda =
        .host 0 (.regWrite (0x40 * 1 + 8 + 4 * 3) 4 7) :: [] :=
  ⟨_, by decide, by decide, by decide, rfl, rfl⟩

theorem witness_RxRegistersStoreAndClear :
    ∃ rc, 0 < State.reset.ports.length ∧ 0 < 16 ∧ (plan [.host 0 (.regWrite (0x500 + 0x10 * 0) 4 7)]).rx[0]? = some rc ∧
      (plan [.host 0 (.regWrite (0x500 + 0x10 * 0) 4 7)]).agenda = .host 0 (.regWrite (0x500 + 0x10 * 0) 4 7) :: [] ∧
      (plan [.host 0 (.regWrite (0x504 + 0x10 * 0) 4 7)]).agenda = .host 0 (.regWrite (0x504 + 0x10 * 0) 4 7) :: [] :=
  ⟨_, by decide, by decide, rfl, rfl, rfl⟩

/-- An ignored write to RES0, to a bank the block has not, to RXLEN and to the last register; a reserved read of each
kind, at the first offset of its range. -/
theorem witness_ReadOnlyAndReservedRegisters :
    (∀ off ∈ [0x18, 0x80, 0x400, 0x508, 0x510, 0x3FFC], off % 4 = 0 ∧ off < 0x4000 ∧
      ¬ (off < 0x400 ∧ off / 0x40 < State.reset.ports.length ∧ off % 0x40 < 0x18) ∧
      ¬ (0x500 ≤ off ∧ off < 0x600 ∧ (off - 0x500) / 0x10 < State.reset.rx.length ∧ off % 0x10 < 8)) ∧
    0 < State.reset.ports.length ∧ (plan [.host 0 (.regWrite 0x18 4 7)]).agenda = .host 0 (.regWrite 0x18 4 7) :: [] ∧
    (∀ off ∈ [0x80, 0x20, 0x428, 0x510, 0x600, 0x800], off % 4 = 0 ∧ off < 0x4000 ∧
      ((off < 0x400 ∧ (State.reset.ports.length ≤ off / 0x40 ∨ 0x20 ≤ off % 0x40)) ∨ (0x428 ≤ off ∧ off < 0x500) ∨
        (0x500 ≤ off ∧ off < 0x600 ∧ State.reset.rx.length ≤ (off - 0x500) / 0x10) ∨ (0x600 ≤ off ∧ off < 0x800) ∨
        (0x800 ≤ off ∧ State.reset.roster.length ≤ (off - 0x800) / 8))) ∧
    0x3FFC % 4 = 0 ∧ 0x3FFC < 0x4000 ∧
      (plan [.host 0 (.regRead 0x3FFC 4)]).agenda = .host 0 (.regRead 0x3FFC 4) :: [] := by decide

/-- The roster's last entry and the first slot after it. -/
theorem witness_GlobalRegistersShowTheState :
    ∃ t, exec (.hubAttach uA) (pend (.hubAttach uA) State.reset) = .next t ∧ t.roster[0]? = some uA ∧
      t.roster.length ≤ 1 ∧ (pend (.hubAttach uA) State.reset).Inv ∧
      (0 < (plan [.host 0 (.regWrite 0x424 4 7)]).ports.length ∧ 0x424 % 4 = 0 ∧
        (plan [.host 0 (.regWrite 0x424 4 7)]).agenda = .host 0 (.regWrite 0x424 4 7) :: []) :=
  ⟨_, rfl, rfl, by decide, pend_inv _, by decide, by decide, rfl⟩

theorem witness_HostBufWriteIsLittleEndian :
    0 < State.reset.ports.length ∧ ((4 : Nat) = 1 ∨ (4 : Nat) = 2 ∨ (4 : Nat) = 4) ∧
      65532 + 4 ≤ State.reset.cfg.bufBytes ∧
      (plan [.host 0 (.bufWrite 65532 4 7)]).agenda = .host 0 (.bufWrite 65532 4 7) :: [] := by decide

theorem witness_ConsumersTakeTheHead :
    ((plan [.upstream]).agenda = .upstream :: [] ∧ (plan [.upstream]).upQ = []) ∧
    ((plan [.downstream]).agenda = .downstream :: [] ∧ (plan [.downstream]).downQ = []) ∧
    (∃ s : State, s.agenda = .upstream :: [] ∧ s.upQ = .devicesSnapshot [] :: []) ∧
    ∃ s : State, s.agenda = .downstream :: [] ∧ s.downQ = ⟨uA, [1]⟩ :: [] :=
  ⟨⟨rfl, rfl⟩, ⟨rfl, rfl⟩, ⟨{ plan [.upstream] with upQ := [.devicesSnapshot []] }, rfl, rfl⟩,
    ⟨{ plan [.downstream] with downQ := [⟨uA, [1]⟩] }, rfl, rfl⟩⟩

/-- CONV.W2G with an operand wider than its field, on port 1; and its `wait`, with the command pending and after it. -/
theorem witness_StatementWritesLatchTheCommand :
    (let s : State := { plan (List.replicate 5 .program ++ []) with program := asmCommand 1 0x23 [0xFFFFFFDB] ++ [] }
     ∃ pt, 1 < 16 ∧ s.ports[1]? = some pt ∧ pt.pending = false ∧ s.program = asmCommand 1 0x23 [0xFFFFFFDB] ++ [] ∧
       s.agenda = List.replicate 5 .program ++ []) ∧
    (let s : State := { pend .nop State.reset with program := .wait 0 :: [], agenda := .program :: [] }
     ∃ pt, 0 < 16 ∧ s.ports[0]? = some pt ∧ pt.pending = true ∧ s.program = .wait 0 :: [] ∧ s.agenda = .program :: []) ∧
    (let s : State := { plan (.program :: []) with program := .wait 1 :: [] }
     ∃ pt, 1 < 16 ∧ s.ports[1]? = some pt ∧ pt.pending = false ∧ s.program = .wait 1 :: [] ∧
       s.agenda = .program :: []) :=
  ⟨⟨_, by decide, rfl, rfl, rfl, rfl⟩, ⟨_, by decide, rfl, rfl, rfl, rfl⟩, ⟨_, by decide, rfl, rfl, rfl, rfl⟩⟩

theorem witness_SlipDecodeReportsTheFirstFailure :
    slipDecode [0xDB, 0xDC] = .ok [0xC0] ∧ slipDecode [0x41, 0xDB, 0xDC, 0xDB] = .error (.trailingEsc, 3) ∧
      slipDecode [0xDB, 0xDB] = .error (.doubleEsc, 0) ∧ slipDecode [0xDB, 0x41] = .error (.invalidEsc, 0) ∧
      (slipDecode [0x41, 0xDB, 0xDD] = .ok [0x41, 0xDB] ∧ (0xDE#8 ≠ 0xDB#8 ∧ 0xDE#8 ≠ 0xDC#8 ∧ 0xDE#8 ≠ 0xDD#8)) :=
  ⟨rfl, rfl, rfl, rfl, rfl, by decide⟩

/-- The capacity that just suffices, and one less; the output range ends at the end of BUF. -/
theorem witness_SlipEncEncodesOrLacksCapacity :
    let s := holding 0 [0xC0, 0xC0]
    (0 : Word).toNat + (2 : Word).toNat ≤ s.cfg.bufBytes ∧ (65531 : Word).toNat + (5 : Word).toNat ≤ s.cfg.bufBytes ∧
      Apart (0 : Word).toNat (2 : Word).toNat (65531 : Word).toNat (5 : Word).toNat ∧
      ([0xC0, 0xC0] : List Byte).length = (2 : Word).toNat ∧ s.buf.Holds (0 : Word).toNat [0xC0, 0xC0] ∧
      (slipEncode [0xC0, 0xC0]).length ≤ (5 : Word).toNat ∧
      Apart (0 : Word).toNat (2 : Word).toNat (65531 : Word).toNat (4 : Word).toNat ∧
      ¬ (slipEncode [0xC0, 0xC0]).length ≤ (4 : Word).toNat :=
  ⟨by decide, by decide, .inr (.inr (.inl (by decide))), rfl, holding_holds 0 _, by decide,
    .inr (.inr (.inl (by decide))), by decide⟩

/-- A body that decodes, at the end of BUF, and one that fails. -/
theorem witness_SlipDecDecodesInPlace :
    (65534 : Word).toNat + (2 : Word).toNat ≤ State.reset.cfg.bufBytes ∧
      (holding 65534 [0xDB, 0xDC]).buf.Holds (65534 : Word).toNat [0xDB, 0xDC] ∧
      ([0xDB, 0xDC] : List Byte).length = (2 : Word).toNat ∧ slipDecode [0xDB, 0xDC] = .ok [0xC0] ∧
      (holding 65534 [0xDB, 0xDB]).buf.Holds (65534 : Word).toNat [0xDB, 0xDB] ∧
      slipDecode [0xDB, 0xDB] = .error (.doubleEsc, 0) :=
  ⟨by decide, holding_holds 65534 _, rfl, rfl, holding_holds 65534 _, rfl⟩

/-- Dropping; a full area of one byte; an area with one byte of room. -/
theorem witness_SlipRxOfADataByte :
    (0x41#8 ≠ 0xC0#8) ∧
    ∀ c ∈ [RxChannel.mk 65535 1 1 true, RxChannel.mk 65535 1 1 false, RxChannel.mk 65535 1 0 false],
      (channel c []).rx[(0 : Word).toNat]? = some c ∧ c.base.toNat + c.cap.toNat ≤ (channel c []).cfg.bufBytes := by
  decide

/-- Dropping; an empty frame; a frame that decodes; one that fails. -/
theorem witness_SlipRxOfEnd :
    (∀ c ∈ [RxChannel.mk 0x300 8 3 true, RxChannel.mk 0x300 8 0 false, RxChannel.mk 0x300 8 2 false],
      (channel c []).rx[(0 : Word).toNat]? = some c ∧ c.base.toNat + c.cap.toNat ≤ (channel c []).cfg.bufBytes) ∧
    (([] : List Byte).length = (RxChannel.mk 0x300 8 0 false).len.toNat ∧ Memory.Holds [] 0x300 []) ∧
    (([0xDB, 0xDC] : List Byte).length = (RxChannel.mk 0x300 8 2 false).len.toNat ∧
      (cellsFrom 0x300 [0xDB, 0xDC]).Holds 0x300 [0xDB, 0xDC]) ∧
    (cellsFrom 0x300 [0xDB, 0xDB]).Holds 0x300 [0xDB, 0xDB] :=
  ⟨by decide, ⟨rfl, fun i b h => by simp at h⟩, ⟨rfl, holds_cells 0x300 _⟩, holds_cells 0x300 _⟩

theorem witness_EndResynchronisesTheChannel :
    let c : RxChannel := ⟨0x300, 8, 2, false⟩
    let s := channel c (cellsFrom 0x300 [0xDB, 0xDB])
    s.rx[(0 : Word).toNat]? = some c ∧ c.base.toNat + c.cap.toNat ≤ s.cfg.bufBytes ∧
      ∃ t, exec (.slipRx 0xC0 0) s = .next t := ⟨rfl, by decide, _, rfl⟩

/-- The last channel there is, the first there is not, and an area one byte past BUF. -/
theorem witness_SlipRxclrAndChannelChecks :
    State.reset.rx[(0 : Word).toNat]? = some RxChannel.reset ∧ State.reset.rx.length ≤ (1 : Word).toNat ∧
      (channel ⟨0xFFFF, 2, 0, false⟩ []).rx[(0 : Word).toNat]? = some ⟨0xFFFF, 2, 0, false⟩ ∧
      State.reset.cfg.bufBytes < (0xFFFF : Word).toNat + (2 : Word).toNat := by decide

/-- Each clause, one byte past the end of BUF; the range checked first ends at it. -/
theorem witness_RangeOutsideBufIsBadAddress :
    let n := State.reset.cfg.bufBytes
    n < (0xFFFF : Word).toNat + (2 : Word).toNat ∧
      ((0xFFFF : Word).toNat + (1 : Word).toNat ≤ n ∧ n < (0xFFFF : Word).toNat + (2 : Word).toNat) ∧
      n < (65529 : Word).toNat + 8 ∧ n < (65481 : Word).toNat + 56 ∧
      ((65480 : Word).toNat + 56 ≤ n ∧ n < (65521 : Word).toNat + 16) ∧ n < (65521 : Word).toNat + 16 ∧
      ((65520 : Word).toNat + 16 ≤ n ∧ n < (65481 : Word).toNat + 56) := by decide

/-- Each clause, ranges that share one byte. -/
theorem witness_OverlappingRangesAreRefused :
    let n := State.reset.cfg.bufBytes
    ((0 : Word).toNat + (4 : Word).toNat ≤ n ∧ (3 : Word).toNat + (8 : Word).toNat ≤ n ∧
      ¬ Apart (0 : Word).toNat (4 : Word).toNat (3 : Word).toNat (8 : Word).toNat) ∧
    ((0 : Word).toNat + 56 ≤ n ∧ (55 : Word).toNat + 16 ≤ n ∧ ¬ Apart (0 : Word).toNat 56 (55 : Word).toNat 16) ∧
    ((0 : Word).toNat + 16 ≤ n ∧ (15 : Word).toNat + 56 ≤ n ∧ ¬ Apart (0 : Word).toNat 16 (15 : Word).toNat 56) := by
  unfold Apart; decide

/-- The bytes at the ends of each clause's range. -/
theorem witness_TypeRegistryAndTypeClass :
    (0x13#8).toNat ≤ 0x13 ∧ (0x14#8).toNat = 0x14 ∧ (0x15 ≤ (0x15#8).toNat ∧ (0x15#8).toNat ≤ 0x7F) ∧
      (0x15 ≤ (0x7F#8).toNat ∧ (0x7F#8).toNat ≤ 0x7F) ∧
      ((0x80#8).toNat = 0x80 ∧ ({ Config.build with vendorLo := 0x81 } : Config).vendorLo = 0x81) ∧
      ((0x80#8).toNat = 0x80 ∧ Config.build.vendorLo = 0x80) ∧ (0x81 ≤ (0x81#8).toNat ∧ (0x81#8).toNat ≤ 0xFE) ∧
      (0x81 ≤ (0xFE#8).toNat ∧ (0xFE#8).toNat ≤ 0xFE) ∧ (0xFF#8).toNat = 0xFF ∧
      classify Config.build 0x80 = classify Config.build 0x80 ∧ classify Config.build 0x80 ≠ .invalid ∧
      Config.build.wf = true ∧ ({ Config.build with vendorLo := 0x81 } : Config).wf = true := by decide

/-- The record of V-SER-1 and the capacity that just suffices. -/
theorem witness_PktSerOfADescribedKind :
    (let s := holding 0 serRecord
     Kind.acc.described = true ∧ sendKind s.cfg (classify s.cfg (byteAt serRecord 0)) = some .acc ∧
       serRecord.length = hostSize .acc 0 ∧ s.buf.Holds (0 : Word).toNat serRecord ∧
       (0 : Word).toNat + hostSize .acc 0 ≤ s.cfg.bufBytes ∧ (36 : Word).toNat + (20 : Word).toNat ≤ s.cfg.bufBytes ∧
       Apart (0 : Word).toNat (hostSize .acc 0) (36 : Word).toNat (20 : Word).toNat ∧
       4 + payloadLen .acc 0 ≤ (20 : Word).toNat) ∧
    ∀ q ∈ [(1, Kind.obj), (2, Kind.mrk), (4, Kind.ver)],
      let r : List Byte := BitVec.ofNat 8 q.1 :: List.replicate (hostSize q.2 0 - 1) 0xFF
      q.2.described = true ∧ sendKind Config.build (classify Config.build (byteAt r 0)) = some q.2 ∧
        r.length = hostSize q.2 0 ∧ (holding 0 r).buf.Holds (0 : Word).toNat r ∧
        (0 : Word).toNat + hostSize q.2 0 ≤ Config.build.bufBytes ∧
        (1812 : Word).toNat + (522 : Word).toNat ≤ Config.build.bufBytes ∧
        Apart (0 : Word).toNat (hostSize q.2 0) (1812 : Word).toNat (522 : Word).toNat ∧
        4 + payloadLen q.2 0 ≤ (522 : Word).toNat := by
  refine ⟨⟨rfl, rfl, rfl, holding_holds 0 _, by decide, by decide, .inr (.inr (.inl (by decide))), by decide⟩, ?_⟩
  simp only [List.mem_cons, List.not_mem_nil, or_false, forall_eq_or_imp, forall_eq]
  refine ⟨?_, ?_, ?_⟩ <;>
    exact ⟨rfl, rfl, by rw [List.length_cons, List.length_replicate]; rfl, holding_holds 0 _, by decide, by decide,
      .inr (.inr (.inl (by decide))), by decide⟩

/-- The vendor clause with LEN 3, the FIX clause, and the VAR clause with LEN 0; each capacity just suffices. -/
theorem witness_PktSerOfVendorAndOpaqueKinds :
    (sendKind Config.build (classify Config.build (byteAt vendorRecord 0)) = some .vend ∧
      (holding 0 vendorRecord).buf.Holds (0 : Word).toNat vendorRecord ∧ vendorRecord.length = 16 + 3 ∧ 3 ≤ 98 ∧
      wordAt vendorRecord 12 = BitVec.ofNat 32 3 ∧ (0 : Word).toNat + 114 ≤ Config.build.bufBytes ∧
      (114 : Word).toNat + (104 : Word).toNat ≤ Config.build.bufBytes ∧
      Apart (0 : Word).toNat 114 (114 : Word).toNat (104 : Word).toNat ∧ 104 ≤ (104 : Word).toNat) ∧
    (sendKind Config.build (classify Config.build (byteAt fixRecord 0)) = some (.fix 2) ∧
      (holding 0 fixRecord).buf.Holds (0 : Word).toNat fixRecord ∧ fixRecord.length = 12 + 2 ∧ 2 % 2 = 0 ∧ 2 ≤ 131066 ∧
      wordAt fixRecord 8 = BitVec.ofNat 32 2 ∧ (0 : Word).toNat + (12 + 2) ≤ Config.build.bufBytes ∧
      Apart (0 : Word).toNat (12 + 2) (14 : Word).toNat (6 : Word).toNat ∧ 4 + 2 ≤ (6 : Word).toNat) ∧
    (sendKind Config.build (classify Config.build (byteAt varRecord 0)) = some .var ∧
      (holding 0 varRecord).buf.Holds (0 : Word).toNat varRecord ∧ varRecord.length = 12 + 0 ∧
      wordAt varRecord 8 = BitVec.ofNat 32 0 ∧ Apart (0 : Word).toNat (12 + 0) (12 : Word).toNat (4 : Word).toNat ∧
      4 + 0 ≤ (4 : Word).toNat) :=
  ⟨⟨rfl, holding_holds 0 _, rfl, by decide, rfl, by decide, by decide, .inr (.inr (.inl (by decide))), by decide⟩,
    ⟨rfl, holding_holds 0 _, rfl, by decide, by decide, rfl, by decide, .inr (.inr (.inl (by decide))), by decide⟩,
    ⟨rfl, holding_holds 0 _, rfl, rfl, .inr (.inr (.inl (by decide))), by decide⟩⟩

/-- Each error of the list, in its order, at a boundary: a type byte of each kind, ranges one byte too long or sharing one
byte, LEN words one too large or odd, and a capacity one too small. -/
theorem witness_PktSerErrors :
    ((0 : Word).toNat + 8 ≤ Config.build.bufBytes ∧ (holding 0 serRecord).buf.Holds (0 : Word).toNat serRecord ∧
      8 ≤ serRecord.length) ∧
    classify Config.build 0x15 = .invalid ∧ classify Config.build 0x14 = .endMark ∧
    classify { Config.build with vendorLo := 0x81 } 0x80 = .vendorStart ∧ classify Config.build 0xFF = .vendorEnd ∧
    (sendKind Config.build (classify Config.build 5) = some .var ∧ Config.build.bufBytes < (65525 : Word).toNat + 12 ∧
      (65525 : Word).toNat + 8 ≤ Config.build.bufBytes) ∧
    (sendKind Config.build (classify Config.build (byteAt serRecord 0)) = some .acc ∧
      Config.build.bufBytes < (65501 : Word).toNat + hostSize .acc 0 ∧
      (0 : Word).toNat + hostSize .acc 0 ≤ Config.build.bufBytes ∧
      Config.build.bufBytes < (65516 : Word).toNat + (21 : Word).toNat ∧
      (65516 : Word).toNat + (20 : Word).toNat ≤ Config.build.bufBytes ∧
      ¬ Apart (0 : Word).toNat (hostSize .acc 0) (35 : Word).toNat (20 : Word).toNat ∧
      Apart (0 : Word).toNat (hostSize .acc 0) (36 : Word).toNat (19 : Word).toNat ∧
      (19 : Word).toNat < 4 + payloadLen .acc 0) ∧
    (98 < (wordAt ([0x80, 1, 5, 99].flatMap le32) 12).toNat ∧ 16 ≤ ([0x80, 1, 5, 99].flatMap le32).length ∧
      (wordAt vendorRecord 12).toNat ≤ 98 ∧ (103 : Word).toNat < 104) ∧
    (12 ≤ fixRecord.length ∧ (wordAt fixRecord 8).toNat = 2 ∧ (wordAt ([6, 0, 3].flatMap le32) 8).toNat ≠ 2 ∧
      (5 : Word).toNat < 4 + 2) ∧
    ((wordAt ([5, 9, 3].flatMap le32) 8).toNat % 2 = 1 ∧ 131066 < (wordAt ([5, 9, 131068].flatMap le32) 8).toNat ∧
      (3 : Word).toNat < 4 + 0) :=
  ⟨⟨by decide, holding_holds 0 _, by decide⟩, rfl, rfl, rfl, rfl, ⟨rfl, by decide, by decide⟩,
    ⟨rfl, by decide, by decide, by decide, by decide, by unfold Apart; decide, by unfold Apart; decide, by decide⟩,
    ⟨by decide, by decide, by decide, by decide⟩, ⟨by decide, by decide, by decide, by decide⟩,
    ⟨by decide, by decide, by decide⟩⟩

/-- V-PAR-14: the packet of V-SER-1 with five bytes after it; V-SER-3's packet, with LEN at its greatest; and a packet of
each of the other described kinds. -/
theorem witness_PktParseOfDescribedAndVendorKinds :
    (let s := holding 0 serPacket
     (0 : Word).toNat + (25 : Word).toNat ≤ s.cfg.bufBytes ∧ (25 : Word).toNat + (36 : Word).toNat ≤ s.cfg.bufBytes ∧
      Apart (0 : Word).toNat (25 : Word).toNat (25 : Word).toNat (36 : Word).toNat ∧
      sendKind s.cfg (classify s.cfg 3) = some .acc ∧ (Kind.acc.described = true ∨ Kind.acc = .vend) ∧
      (serPacket.drop 4).length = payloadLen .acc 0 ∧ 4 + (serPacket.drop 4).length ≤ (25 : Word).toNat ∧
      (holding 2 (serPacket.drop 2)).buf.Holds ((0 : Word).toNat + 2) ([3, 7] ++ serPacket.drop 4) ∧
      hostSize .acc 0 ≤ (36 : Word).toNat) ∧
    (let p : List Byte := [5, 98] ++ List.replicate 98 0xEE
     sendKind Config.build (classify Config.build 0x80) = some .vend ∧ p.length = payloadLen .vend 0 ∧
      (byteAt p 1).toNat ≤ 98 ∧ (holding 2 ([0x80, 1] ++ p)).buf.Holds ((0 : Word).toNat + 2) ([0x80, 1] ++ p)) ∧
    ∀ q ∈ [((1 : Byte), Kind.obj), (2, .mrk), (4, .ver)],
      let p : List Byte := List.replicate (payloadLen q.2 0) 0xFF
      (0 : Word).toNat + (522 : Word).toNat ≤ Config.build.bufBytes ∧
        (522 : Word).toNat + (1812 : Word).toNat ≤ Config.build.bufBytes ∧
        Apart (0 : Word).toNat (522 : Word).toNat (522 : Word).toNat (1812 : Word).toNat ∧
        sendKind Config.build (classify Config.build q.1) = some q.2 ∧ q.2.described = true ∧
        p.length = payloadLen q.2 0 ∧ 4 + payloadLen q.2 0 ≤ (522 : Word).toNat ∧
        (holding 2 ([q.1, 1] ++ p)).buf.Holds ((0 : Word).toNat + 2) ([q.1, 1] ++ p) ∧
        hostSize q.2 0 ≤ (1812 : Word).toNat := by
  refine ⟨⟨by decide, by decide, .inr (.inr (.inl (by decide))), rfl, .inl rfl, rfl, by decide, holding_holds 2 _,
    by decide⟩, ⟨rfl, rfl, by decide, holding_holds 2 _⟩, ?_⟩
  simp only [List.mem_cons, List.not_mem_nil, or_false, forall_eq_or_imp, forall_eq]
  refine ⟨?_, ?_, ?_⟩ <;>
    exact ⟨by decide, by decide, .inr (.inr (.inl (by decide))), rfl, rfl, List.length_replicate, by decide,
      holding_holds 2 _, by decide⟩

/-- V-PAR-15 for FIX(2), V-PAR-8 for VAR, and the shortest VAR packet, whose word-count is 2. -/
theorem witness_PktParseOfAnOpaqueKind :
    ((0 : Word).toNat + (6 : Word).toNat ≤ Config.build.bufBytes ∧
      (6 : Word).toNat + (14 : Word).toNat ≤ Config.build.bufBytes ∧
      Apart (0 : Word).toNat (6 : Word).toNat (6 : Word).toNat (14 : Word).toNat ∧
      sendKind Config.build (classify Config.build 6) = some (.fix 2) ∧
      Kind.fix 2 = .fix ([0xAA, 0xBB] : List Byte).length ∧ 4 + ([0xAA, 0xBB] : List Byte).length ≤ (6 : Word).toNat ∧
      (holding 0 (le16 3 ++ [6, 1] ++ [0xAA, 0xBB])).buf.Holds (0 : Word).toNat (le16 3 ++ [6, 1] ++ [0xAA, 0xBB])) ∧
    (sendKind Config.build (classify Config.build 5) = some .var ∧ 2 ≤ (3 : Half).toNat ∧
      ([0xAA, 0xBB] : List Byte).length = 2 * (3 : Half).toNat - 4 ∧
      (holding 0 (le16 3 ++ [5, 9] ++ [0xAA, 0xBB])).buf.Holds (0 : Word).toNat (le16 3 ++ [5, 9] ++ [0xAA, 0xBB])) ∧
    (2 ≤ (2 : Half).toNat ∧ ([] : List Byte).length = 2 * (2 : Half).toNat - 4 ∧
      (holding 0 (le16 2 ++ [5, 9] ++ [])).buf.Holds (0 : Word).toNat (le16 2 ++ [5, 9] ++ [])) :=
  ⟨⟨by decide, by decide, .inr (.inr (.inl (by decide))), rfl, rfl, by decide, holding_holds 0 _⟩,
    ⟨rfl, by decide, rfl, holding_holds 0 _⟩, ⟨by decide, rfl, holding_holds 0 _⟩⟩

/-- V-PAR-2, 3, 7, 9, 6, 11 and 13, in the order of the clauses. -/
theorem witness_PktParseErrors :
    (Apart (0 : Word).toNat (2 : Word).toNat (0x800 : Word).toNat (0x800 : Word).toNat ∧
      (0x800 : Word).toNat + (0x800 : Word).toNat ≤ Config.build.bufBytes ∧ (2 : Word).toNat < 3) ∧
    (3 ≤ (3 : Word).toNat ∧ (holding 0 [0x0A, 0x00, 0x15]).buf.lookup ((0 : Word).toNat + 2) = some 0x15 ∧
      sendKind Config.build (classify Config.build 0x15) = none) ∧
    (sendKind Config.build (classify Config.build 5) = some .var ∧
      (holding 0 (le16 1 ++ [5])).buf.Holds (0 : Word).toNat (le16 1 ++ [5]) ∧ (1 : Half).toNat < 2 ∧
      2 ≤ (4 : Half).toNat ∧ (7 : Word).toNat < 2 * (4 : Half).toNat) ∧
    (sendKind Config.build (classify Config.build 3) = some .acc ∧ Kind.acc ≠ .var ∧
      (19 : Word).toNat < 4 + payloadLen .acc 0 ∧ 4 + payloadLen .acc 0 ≤ (20 : Word).toNat ∧
      (serPacket.drop 4).length = payloadLen .acc 0 ∧
      (holding 3 ([7] ++ serPacket.drop 4)).buf.Holds ((0 : Word).toNat + 3) ([7] ++ serPacket.drop 4) ∧
      Kind.acc.described = true ∧ (35 : Word).toNat < hostSize .acc 0) ∧
    (let p : List Byte := [5, 99] ++ List.replicate 98 0
     sendKind Config.build (classify Config.build 0x80) = some .vend ∧ p.length = payloadLen .vend 0 ∧
      (holding 3 ([1] ++ p)).buf.Holds ((0 : Word).toNat + 3) ([1] ++ p) ∧ 98 < (byteAt p 1).toNat ∧
      (byteAt ([5, 98] ++ List.replicate 98 0) 1).toNat ≤ 98 ∧ (113 : Word).toNat < hostSize .vend 0) :=
  ⟨⟨.inr (.inr (.inl (by decide))), by decide, by decide⟩, ⟨by decide, rfl, rfl⟩,
    ⟨rfl, holding_holds 0 _, by decide, by decide, by decide⟩,
    ⟨rfl, by decide, by decide, by decide, rfl, holding_holds 3 _, rfl, by decide⟩,
    ⟨rfl, rfl, holding_holds 3 _, by decide, by decide, by decide⟩⟩

/-- V-SER-1's record is canonical. -/
theorem serRecord_canonical : CanonicalRecord .acc serRecord := by
  unfold CanonicalRecord; decide

/-- V-SER-3's whole record, LEN 3 and zeros from there on, is canonical. -/
theorem vendorRecord_canonical : CanonicalRecord .vend (vendorRecord ++ List.replicate 95 0) := by
  unfold CanonicalRecord; decide

theorem witness_PayloadRoundTrip :
    (0 < 2 ^ 32 ∧ serRecord.length = hostSize .acc 0 ∧ CanonicalRecord .acc serRecord) ∧
    ((vendorRecord ++ List.replicate 95 0).length = hostSize .vend 0 ∧
      CanonicalRecord .vend (vendorRecord ++ List.replicate 95 0)) :=
  ⟨⟨by decide, rfl, serRecord_canonical⟩, ⟨rfl, vendorRecord_canonical⟩⟩

theorem witness_SerializeThenParseRestoresTheRecord :
    let s := holding 0 serRecord
    (Kind.acc.described = true ∨ Kind.acc = .vend) ∧
      sendKind s.cfg (classify s.cfg (byteAt serRecord 0)) = some .acc ∧ serRecord.length = hostSize .acc 0 ∧
      CanonicalRecord .acc serRecord ∧ s.buf.Holds (0 : Word).toNat serRecord ∧
      (0 : Word).toNat + hostSize .acc 0 ≤ s.cfg.bufBytes ∧ (36 : Word).toNat + (20 : Word).toNat ≤ s.cfg.bufBytes ∧
      (56 : Word).toNat + (36 : Word).toNat ≤ s.cfg.bufBytes ∧
      Apart (0 : Word).toNat (hostSize .acc 0) (36 : Word).toNat (20 : Word).toNat ∧
      Apart (36 : Word).toNat (20 : Word).toNat (56 : Word).toNat (36 : Word).toNat ∧
      4 + payloadLen .acc 0 ≤ (20 : Word).toNat ∧ hostSize .acc 0 ≤ (36 : Word).toNat :=
  ⟨.inl rfl, rfl, rfl, serRecord_canonical, holding_holds 0 _, by decide, by decide, by decide,
    .inr (.inr (.inl (by decide))), .inr (.inr (.inl (by decide))), by decide, by decide⟩

/-- FIX(2), VAR of length 0, and a vendor record. -/
theorem witness_PayloadLengthsAndWordCount :
    Config.build.wf = true ∧
    (sendKind Config.build (classify Config.build 6) = some (.fix 2) ∧ fixRecord.length = hostSize (.fix 2) 2 ∧
      2 % 2 = 0 ∧ 2 ≤ 131066 ∧ ∀ m, Kind.fix 2 = .fix m → 2 = m) ∧
    (sendKind Config.build (classify Config.build 5) = some .var ∧ varRecord.length = hostSize .var 0) ∧
    (sendKind Config.build (classify Config.build 0x80) = some .vend ∧
      (vendorRecord ++ List.replicate 95 0).length = hostSize .vend 0 ∧
      (wordAt (vendorRecord ++ List.replicate 95 0) 12).toNat ≤ 98) :=
  ⟨by decide, ⟨rfl, rfl, rfl, by decide, fun m h => by cases h; rfl⟩, ⟨rfl, rfl⟩, ⟨rfl, rfl, by decide⟩⟩

/-- The vectors of L1.2, with the ranges next to each other. -/
theorem witness_MotCommandsConvertTheRecord :
    ((0 : Word).toNat + 56 ≤ Config.build.bufBytes ∧ (56 : Word).toNat + 16 ≤ Config.build.bufBytes ∧
      Apart (0 : Word).toNat 56 (56 : Word).toNat 16 ∧
      (holding 0 motWords).buf.Holds (0 : Word).toNat
        ([0x1234, 3004, 291, 0x80, 0xFF, 10, 5, 0, 127, 0, 127, 1, 2, 3].flatMap le32)) ∧
    ((0 : Word).toNat + 16 ≤ Config.build.bufBytes ∧ (16 : Word).toNat + 56 ≤ Config.build.bufBytes ∧
      Apart (0 : Word).toNat 16 (16 : Word).toNat 56 ∧
      (holding 0 motBytes).buf.Holds (0 : Word).toNat
        [0x34, 0x12, 0xBC, 0x0B, 0x23, 0x01, 0x80, 0xFF, 0xA5, 0x00, 0x7F, 0x00, 0x7F, 0x01, 0x02, 0x03]) :=
  ⟨⟨by decide, by decide, .inr (.inr (.inl (by decide))), holding_holds 0 _⟩,
    ⟨by decide, by decide, .inr (.inr (.inl (by decide))), holding_holds 0 _⟩⟩

theorem witness_RoundingIsToNearestTiesToEven :
    (binary64 = binary32 ∨ binary64 = binary64) ∧ (binary32 = binary32 ∨ binary32 = binary64) ∧ 0 < 1 ∧ 0 < 3 ∧
      roundTo binary64 false 1 3 0 = .fin false 0x15555555555555 (-54) ∧ roundTo binary32 true 1 1 200 = .inf true := by
  decide

/-- The infinities, and 1.0 and 2.0. -/
theorem witness_ConversionsToTheWireAreMonotone :
    (fromBits32 0xFF800000).Le (fromBits32 0x7F800000) ∧ (fromBits32 0x3F800000).Le (fromBits32 0x40000000) := by
  refine ⟨trivial, ?_⟩
  have h1 : fromBits32 0x3F800000 = .fin false (2 ^ 23) (-23) := rfl
  have h2 : fromBits32 0x40000000 = .fin false (2 ^ 23) (-22) := rfl
  rw [h1, h2]
  norm_num [Flt.Le, Flt.rat]

/-- A quiet and a signalling NaN; the least and the greatest sample that negate; the two least samples in order; and 1.0,
below both saturation bounds. -/
theorem witness_ConversionOfSpecialValuesAndSigns :
    ((0x7FC00000 : Word).extractLsb' 23 8 = 0xFF ∧ (0x7FC00000 : Word).extractLsb' 0 23 ≠ 0) ∧
    ((0xFF800001 : Word).extractLsb' 23 8 = 0xFF ∧ (0xFF800001 : Word).extractLsb' 0 23 ≠ 0) ∧
    ((0x8001 : Half) ≠ 0 ∧ (0x8001 : Half) ≠ 0x8000) ∧ ((0x7FFF : Half) ≠ 0 ∧ (0x7FFF : Half) ≠ 0x8000) ∧
    (0x8000 : Half).toInt < (0x8001 : Half).toInt ∧
    ((fromBits32 0x3F800000).IsRat 1 ∧ |(1 : ℚ)| < 32767 * (9.80665 / 2048) ∧
      |((1 : ℚ) : ℝ)| < 32767 * (Real.pi / (180 * 16.4))) := by
  refine ⟨by decide, by decide, by decide, by decide, by decide, ?_, by norm_num, ?_⟩
  · have h : fromBits32 0x3F800000 = .fin false (2 ^ 23) (-23) := rfl
    rw [h]
    norm_num [Flt.IsRat, Flt.rat]
  · have := Real.pi_gt_three
    rw [Rat.cast_one, abs_one]
    linarith

/-- A uuid that is there, a full roster, a held attach, and one that goes on. -/
theorem witness_HubAttachEffects :
    uA ∈ (hub [uA] true).roster ∧
    (uD ∉ (hub [uA, uB, uC] true).roster ∧ (hub [uA, uB, uC] true).roster.length = (hub [] true).cfg.rosterCap) ∧
    (let f : State := { hub [uA] true with cfg := { Config.build with upqDepth := 1 }, upQ := [.devicesSnapshot []] }
     uB ∉ f.roster ∧ f.roster.length ≠ f.cfg.rosterCap ∧ f.subscribed = true ∧ f.upQ.length = f.cfg.upqDepth) ∧
    (uB ∉ (hub [uA] true).roster ∧ (hub [uA] true).roster.length ≠ (hub [] true).cfg.rosterCap ∧
      (hub [uA] true).upQ.length ≠ (hub [uA] true).cfg.upqDepth) := by decide

/-- A full and an empty UpQ. -/
theorem witness_HubSnapshotCommands :
    (let f : State := { State.reset with cfg := { Config.build with upqDepth := 1 }, upQ := [.devicesSnapshot []] }
     f.upQ.length = f.cfg.upqDepth) ∧
    State.reset.upQ.length ≠ State.reset.cfg.upqDepth := by decide

/-- A present and an absent uuid, and a held detach. -/
theorem witness_HubDetachEffects :
    ((hub [uA, uB] true).roster.Nodup ∧ uA ∈ (hub [uA, uB] true).roster ∧ uC ∉ (hub [uA, uB] true).roster) ∧
    (let f : State := { hub [uA] true with cfg := { Config.build with upqDepth := 1 }, upQ := [.devicesSnapshot []] }
     f.roster.Nodup ∧ uA ∈ f.roster ∧ f.subscribed = true ∧ f.upQ.length = f.cfg.upqDepth) := by decide

/-- An absent and a present device, a full and an empty queue, a packet at the end of BUF. -/
theorem witness_HubRoutingEffects :
    let s : State := { hub [uC] false with buf := cellsFrom 65532 [2, 0, 5, 1] }
    (65532 : Word).toNat + (4 : Word).toNat ≤ s.cfg.bufBytes ∧ uA ∉ s.roster ∧ uC ∈ s.roster ∧
      s.downQ.length ≠ s.cfg.downqDepth ∧ s.upQ.length ≠ s.cfg.upqDepth ∧
      ([2, 0, 5, 1] : List Byte).length = (4 : Word).toNat ∧ s.buf.Holds (65532 : Word).toNat [2, 0, 5, 1] ∧
      (let f : State := { s with
        cfg := { s.cfg with upqDepth := 1, downqDepth := 1 }, upQ := [.devicesSnapshot []], downQ := [⟨uC, []⟩] }
       uC ∈ f.roster ∧ f.downQ.length = f.cfg.downqDepth ∧ f.upQ.length = f.cfg.upqDepth) :=
  ⟨by decide, by decide, by decide, by decide, by decide, rfl, holds_cells 65532 _, by decide, rfl, rfl⟩

theorem witness_HubSubscriptionLaw :
    uA ≠ uB ∧ State.reset.roster = [] ∧ State.reset.subscribed = false ∧ 2 ≤ State.reset.cfg.rosterCap ∧
      State.reset.upQ.length + 2 ≤ State.reset.cfg.upqDepth ∧
      (65532 : Word).toNat + (4 : Word).toNat ≤ State.reset.cfg.bufBytes ∧
      State.reset.served < State.reset.ports.length := by decide

end Sys2Proof.Tests
end

section
/-! PROOFS. The host's view of the register space: what one register access does as a step, what the global registers and
the roster view hold as numbers, and which writes the block ignores. -/

namespace Sys2Proof.Machine

/-! A register access as one step (10_state.md rule R53). -/

section
variable {s : State} {q off : Nat} {rest : List AgentStep}

/-- A host's 32-bit aligned register write, next on the agenda, is `writeReg` and nothing more. -/
theorem step_regWrite {v : Word} (hq : q < s.ports.length) (h4 : off % 4 = 0) (hlt : off < 0x4000)
    (h : s.agenda = .host q (.regWrite off 4 v) :: rest) :
    step s = .next (writeReg { s with agenda := rest } off v) := by
  rw [step_host h hq, hostAccess_regWrite _ _ _ _ h4 hlt]

/-- A host's 32-bit aligned register read, next on the agenda, hands `readReg` to the host and changes nothing else. -/
theorem step_regRead (hq : q < s.ports.length) (h4 : off % 4 = 0) (hlt : off < 0x4000)
    (h : s.agenda = .host q (.regRead off 4) :: rest) :
    step s = .next { s with agenda := rest, hostReads := s.hostReads ++ [(q, readReg s off)] } := by
  rw [step_host h hq, hostAccess_regRead _ _ _ h4 hlt]
  rfl

end

/-- The global registers and all that stands from 0x600 up are read-only (rules R38 to R41, R43, R47, R53). -/
theorem writeReg_readOnly {off : Nat} (s : State) (v : Word)
    (h : (0x400 ≤ off ∧ off < 0x500) ∨ 0x600 ≤ off) : writeReg s off v = s := by
  unfold writeReg
  rcases h with ⟨hlo, hhi⟩ | hlo
  · rw [if_neg (by omega), if_pos hhi]
  · rw [if_neg (by omega), if_neg (by omega), if_neg (by omega)]

/-- A read of a global register. -/
theorem readReg_global {off : Nat} (s : State) (h : 0x400 ≤ off ∧ off < 0x500) : readReg s off = readGlobal s off := by
  rw [readReg, if_neg (by omega), if_pos h.2]

/-! The registers made of several fields, as numbers. -/

@[simp] theorem flagBit_toNat (b : Bool) : (flagBit b).toNat = b.toNat := BitVec.toNat_ofBool b

/-- RXSTAT is DROPPING in bit 0 (rule R45). -/
theorem rxStatWord_toNat (c : RxChannel) : (rxStatWord c).toNat = c.dropping.toNat := by
  rw [rxStatWord, BitVec.toNat_setWidth_of_le (by decide), flagBit_toNat]

/-- Rule R9: what INFO and HUBSTAT show of a well-formed configuration fits a byte. -/
theorem Config.counts_lt_of_wf {c : Config} (h : c.wf = true) :
    c.ports < 2 ^ 8 ∧ c.rxChannels < 2 ^ 8 ∧ c.rosterCap < 2 ^ 8 := by
  simp only [Config.wf, Bool.and_eq_true, decide_eq_true_eq] at h
  omega

/-- INFO is its four bytes, each whole where its parameter fits one (rule R38). -/
theorem infoWord_toNat {c : Config} (hp : c.ports < 2 ^ 8) (hr : c.rxChannels < 2 ^ 8) (hc : c.rosterCap < 2 ^ 8) :
    (infoWord c).toNat = c.ports + 2 ^ 8 * c.rxChannels + 2 ^ 16 * c.rosterCap + 2 ^ 24 * c.vendorLo.toNat := by
  have hbytes : infoWord c = u32le (.ofNat 8 c.ports) (.ofNat 8 c.rxChannels) (.ofNat 8 c.rosterCap) c.vendorLo := rfl
  rw [hbytes, u32le_toNat, BitVec.toNat_ofNat, BitVec.toNat_ofNat, BitVec.toNat_ofNat, Nat.mod_eq_of_lt hp,
    Nat.mod_eq_of_lt hr, Nat.mod_eq_of_lt hc]

/-- HUBSTAT is SUBSCRIBED and, from bit 8 up, the roster's length where that fits a byte (rule R40). -/
theorem hubStatWord_toNat {s : State} (h : s.roster.length < 2 ^ 8) :
    (hubStatWord s).toNat = s.subscribed.toNat + 2 ^ 8 * s.roster.length := by
  rw [hubStatWord, BitVec.toNat_setWidth_of_le (by decide), toNat_append_eq, BitVec.toNat_ofNat, Nat.mod_eq_of_lt h,
    BitVec.toNat_setWidth_of_le (by decide), flagBit_toNat]
  omega

/-- QSTAT is the two queue lengths, each cut off at 65535 (rule R43). -/
theorem qStatWord_toNat (s : State) :
    (qStatWord s).toNat = min s.upQ.length 65535 + 2 ^ 16 * min s.downQ.length 65535 := by
  rw [qStatWord, toNat_append_eq, BitVec.toNat_ofNat, BitVec.toNat_ofNat, Nat.mod_eq_of_lt (by omega),
    Nat.mod_eq_of_lt (by omega)]
  omega

/-- ROSTER_LO is the uuid's first four bytes, little-endian (rule R41). -/
theorem uuidLo_toNat (u : Uuid) :
    (uuidLo u).toNat = u.b0.toNat + 2 ^ 8 * u.b1.toNat + 2 ^ 16 * u.b2.toNat + 2 ^ 24 * u.b3.toNat :=
  u32le_toNat u.b0 u.b1 u.b2 u.b3

/-- ROSTER_HI is the uuid's last two bytes, little-endian (rule R41). -/
theorem uuidHi_toNat (u : Uuid) : (uuidHi u).toNat = u.b4.toNat + 2 ^ 8 * u.b5.toNat := by
  rw [uuidHi, BitVec.toNat_setWidth_of_le (by decide)]
  exact u16le_toNat u.b4 u.b5

/-! The roster view, entry by entry (rule R41). -/

section
variable {s : State} {i : Nat}

theorem readReg_rosterLo {u : Uuid} (h : s.roster[i]? = some u) : readReg s (0x800 + 8 * i) = uuidLo u := by
  have hr := readReg_roster (s := s) (i := i) (k := 0) (by decide)
  rw [h] at hr
  exact hr

theorem readReg_rosterHi {u : Uuid} (h : s.roster[i]? = some u) : readReg s (0x804 + 8 * i) = uuidHi u := by
  have hr := readReg_roster (s := s) (i := i) (k := 4) (by decide)
  rw [h, show 0x800 + 8 * i + 4 = 0x804 + 8 * i by omega] at hr
  exact hr

/-- Either word of a slot past the roster's last entry reads 0. -/
theorem readReg_roster_of_length_le {k : Nat} (hk : k < 8) (h : s.roster.length ≤ i) :
    readReg s (0x800 + 8 * i + k) = 0 := by
  rw [readReg_roster hk, List.getElem?_eq_none h]

end

/-! The statements about the register space. -/

/-- Settles O24: each global register is one row of `readGlobal`, whose fields fit because the configuration keeps rule
R9 and the roster is no longer than ROSTER_CAP. -/
theorem globalRegistersShowTheState : Obligations.GlobalRegistersShowTheState := by
  intro s hs
  obtain ⟨hports, hrx, hcap⟩ := Config.counts_lt_of_wf hs.cfg_wf
  have hroster : s.roster.length < 2 ^ 8 := Nat.lt_of_le_of_lt hs.roster_length hcap
  refine ⟨?info, ?bufsize, ?hubstat, ?qstat, readReg_global s (by decide), readReg_global s (by decide),
    readReg_global s (by decide), readReg_global s (by decide), readReg_global s (by decide),
    readReg_global s (by decide), ?entry, ?free, ?ignored⟩
  case info =>
    rw [readReg_global s (by decide)]
    exact infoWord_toNat hports hrx hcap
  case bufsize =>
    rw [readReg_global s (by decide)]
    exact BitVec.toNat_ofNat s.cfg.bufBytes 32
  case hubstat =>
    rw [readReg_global s (by decide)]
    exact hubStatWord_toNat hroster
  case qstat =>
    rw [readReg_global s (by decide)]
    exact qStatWord_toNat s
  case entry =>
    intro i u hu
    rw [readReg_rosterLo hu, readReg_rosterHi hu]
    exact ⟨uuidLo_toNat u, uuidHi_toNat u⟩
  case free =>
    intro i hi
    refine ⟨readReg_roster_of_length_le (k := 0) (by decide) hi, ?_⟩
    rw [show 0x804 + 8 * i = 0x800 + 8 * i + 4 by omega]
    exact readReg_roster_of_length_le (by decide) hi
  case ignored =>
    intro q off rest v hq h4 hoff h
    rw [step_regWrite hq h4 (by omega) h, writeReg_readOnly _ _ (by omega)]

/-- Settles O9: every bank and every channel after reset is the one reset value, and INFO and BUFSIZE are read from the
configuration, which reset keeps. -/
theorem resetLeavesTheValuesOfTheTable : Obligations.ResetLeavesTheValuesOfTheTable := by
  intro c
  have hbank : ∀ pt ∈ (State.resetOf c).ports, pt = Port.reset := fun _ h => List.eq_of_mem_replicate h
  have hchannel : ∀ rc ∈ (State.resetOf c).rx, rc = RxChannel.reset := fun _ h => List.eq_of_mem_replicate h
  refine ⟨⟨List.length_replicate, fun pt hpt => ?banks, rfl, rfl, rfl, rfl, List.length_replicate,
    fun rc hrc => ?channels, ⟨rfl, rfl, rfl, rfl, rfl, rfl⟩, Memory.lookup_nil, ?info, ?bufsize⟩, rfl⟩
  case banks =>
    obtain rfl := hbank pt hpt
    exact ⟨rfl, rfl, rfl, rfl, rfl, rfl, rfl, rfl, rfl⟩
  case channels =>
    obtain rfl := hchannel rc hrc
    exact ⟨rfl, rfl, rfl, rfl⟩
  case info => exact readReg_global _ (by decide)
  case bufsize => exact readReg_global _ (by decide)

/-- Settles O19: the register at offset 0 of a bank is CMD, whose write is `writeCmd` and whose read is 0. -/
theorem cmdWriteLatchesOrOverruns : Obligations.CmdWriteLatchesOrOverruns := by
  intro s q p rest pt w hq hp hpt
  refine ⟨fun h => ?write, fun h => ?read⟩
  case write =>
    rw [step_regWrite hq (by omega) (by omega) h]
    exact congrArg Host.Outcome.next (writeReg_port (s := { s with agenda := rest }) (k := 0) w hp (by decide) hpt)
  case read =>
    have hzero : readReg s (0x40 * p) = 0 := readReg_port (k := 0) hp (by decide) hpt
    rw [step_regRead hq (by omega) (by omega) h, hzero]

/-- Settles O22: RXBASE and RXCAP stand at offsets 0 and 4 of a channel's group, where `writeRx` stores and clears. -/
theorem rxRegistersStoreAndClear : Obligations.RxRegistersStoreAndClear := by
  intro s q c rest rc v hq hc hrc
  have hread (k : Nat) (hk : k < 0x10) : readReg s (0x500 + k + 0x10 * c) = readRx rc k := by
    rw [Nat.add_right_comm, readReg_rx hc hk hrc]
  have hwrite (k : Nat) (hk : k < 0x10) (h4 : k % 4 = 0)
      (h : s.agenda = .host q (.regWrite (0x500 + k + 0x10 * c) 4 v) :: rest) :
      step s = .next { s with agenda := rest, rx := s.rx.set c (writeRx k v rc) } := by
    rw [step_regWrite hq (by omega) (by omega) h, Nat.add_right_comm,
      writeReg_rx (s := { s with agenda := rest }) v hc hk hrc]
  refine ⟨hwrite 0 (by decide) rfl, hwrite 4 (by decide) rfl, hread 0 (by decide), hread 4 (by decide),
    hread 8 (by decide), ?rxstat⟩
  rw [hread 0xC (by decide)]
  exact rxStatWord_toNat rc

end Sys2Proof.Machine
end

section
/-! PROOFS. The type registry of 41_packet.md: the class and the kind of every type byte, and what TYPE.CLASS answers. -/

namespace Sys2Proof.Machine

/-- A command that does nothing but complete changes only the bank of the port served. -/
theorem State.completesOnly_of_exec {s : State} {i : Instr} {code : StatusCode} {r0 r1 : Word}
    (h : exec i s = .next (s.complete code r0 r1)) : s.CompletesOnly i code r0 r1 :=
  ⟨s.complete code r0 r1, h, State.complete_completes rfl rfl code r0 r1, rfl⟩

/-! What a well-formed configuration says of the type registry (rules R9 and R186). -/

theorem Config.vendorLo_of_wf {c : Config} (h : c.wf = true) : c.vendorLo = 0x80 ∨ c.vendorLo = 0x81 := by
  simp only [Config.wf, Bool.and_eq_true, Bool.or_eq_true, beq_iff_eq] at h
  obtain ⟨⟨_, hvendorLo⟩, _⟩ := h
  exact hvendorLo

theorem Config.vendorLo_bounds_of_wf {c : Config} (h : c.wf = true) :
    0x80 ≤ c.vendorLo.toNat ∧ c.vendorLo.toNat ≤ 0x81 := by
  rcases Config.vendorLo_of_wf h with hv | hv <;> rw [hv] <;> decide

theorem Config.catalog_length_of_wf {c : Config} (h : c.wf = true) : c.catalog.length = 20 := by
  simp only [Config.wf, Config.catalogWf, Bool.and_eq_true, beq_iff_eq] at h
  obtain ⟨_, ⟨⟨⟨⟨hlength, _⟩, _⟩, _⟩, _⟩, _⟩ := h
  exact hlength

/-- A well-formed catalog has an entry for every catalog byte, and it is the byte's kind. -/
theorem Config.catalog_getElem?_of_wf {c : Config} {b : Byte} (h : c.wf = true) (hb : b.toNat ≤ 0x13) :
    c.catalog[b.toNat]? = some (catalogKind c b) := by
  have hlt : b.toNat < c.catalog.length := by rw [Config.catalog_length_of_wf h]; omega
  rw [catalogKind, List.getD_eq_getElem _ _ hlt, List.getElem?_eq_getElem hlt]

/-! The class of a type byte. -/

/-- `classify` with its bounds as numbers. -/
theorem classify_eq (c : Config) (b : Byte) :
    classify c b =
      if b.toNat ≤ 0x13 then .catalog b
      else if b.toNat = 0x14 then .endMark
      else if b.toNat ≤ 0x7F then .invalid
      else if b.toNat = 0x80 ∧ c.vendorLo = 0x81 then .vendorStart
      else if b.toNat ≤ 0xFE then .vendor b
      else .vendorEnd := by
  have heq (n : Byte) : b = n ↔ b.toNat = n.toNat := BitVec.toNat_inj.symm
  simp only [classify, BitVec.le_def, heq]
  rfl

/-- The table of rule R185: the class of a byte by the range it lies in. -/
inductive ClassRow (c : Config) (b : Byte) : TypeClass → Prop where
  | catalog (h : b.toNat ≤ 0x13) : ClassRow c b (.catalog b)
  | endMark (h : b.toNat = 0x14) : ClassRow c b .endMark
  | invalid (hlo : 0x15 ≤ b.toNat) (hhi : b.toNat ≤ 0x7F) : ClassRow c b .invalid
  | vendorStart (h : b.toNat = 0x80) (hv : c.vendorLo = 0x81) : ClassRow c b .vendorStart
  | vendor (h80 : 0x80 ≤ b.toNat) (hlo : c.vendorLo.toNat ≤ b.toNat) (hhi : b.toNat ≤ 0xFE) : ClassRow c b (.vendor b)
  | vendorEnd (h : b.toNat = 0xFF) : ClassRow c b .vendorEnd

/-- `classify` answers the class of the byte's row. -/
theorem ClassRow.classify_eq {c : Config} {b : Byte} {x : TypeClass} (h : ClassRow c b x) : classify c b = x := by
  rw [Machine.classify_eq]
  cases h with
  | catalog h => exact if_pos h
  | endMark h => simp [h]
  | invalid hlo hhi => rw [if_neg (by omega), if_neg (by omega), if_pos hhi]
  | vendorStart h hv => simp [h, hv]
  | vendor h80 hlo hhi =>
    have hstart : ¬ (b.toNat = 0x80 ∧ c.vendorLo = 0x81) := by
      rintro ⟨hb, hv⟩
      rw [hb, hv] at hlo
      exact absurd hlo (by decide)
    rw [if_neg (by omega), if_neg (by omega), if_neg (by omega), if_neg hstart, if_pos hhi]
  | vendorEnd h => simp [h]

/-- Every byte lies in a row of the table, and the row's class is the one `classify` answers. -/
theorem classify_row {c : Config} (hwf : c.wf = true) (b : Byte) : ClassRow c b (classify c b) := by
  have hb := b.isLt
  rw [classify_eq]
  split_ifs with hcatalog hend hinvalid hstart hvendor
  · exact .catalog hcatalog
  · exact .endMark hend
  · exact .invalid (by omega) hinvalid
  · exact .vendorStart hstart.1 hstart.2
  · have h80 : 0x80 ≤ b.toNat := by omega
    refine .vendor h80 ?_ hvendor
    rcases Config.vendorLo_of_wf hwf with hv | hv
    · rw [hv]
      exact h80
    · rw [hv]
      exact Nat.lt_of_le_of_ne h80 fun h => hstart ⟨h.symm, hv⟩
  · exact .vendorEnd (by omega)

/-- The byte a valid class stands for. -/
def TypeClass.byte : TypeClass → Byte
  | .catalog b | .vendor b => b
  | .endMark => 0x14
  | .vendorStart => 0x80
  | .vendorEnd => 0xFF
  | .invalid => 0

/-- A valid class determines the byte it was answered for. -/
theorem ClassRow.byte_eq {c : Config} {b : Byte} {x : TypeClass} (h : ClassRow c b x) (hv : x ≠ .invalid) :
    x.byte = b := by
  cases h with
  | catalog _ | vendor _ _ _ => rfl
  | endMark h | vendorStart h _ | vendorEnd h => exact BitVec.eq_of_toNat_eq h.symm
  | invalid _ _ => exact absurd rfl hv

/-- Two bytes of one valid class are equal. -/
theorem classify_inj {c : Config} {b b' : Byte} (hwf : c.wf = true) (h : classify c b = classify c b')
    (hv : classify c b ≠ .invalid) : b = b' := by
  calc
    b = (classify c b).byte := ((classify_row hwf b).byte_eq hv).symm
    _ = (classify c b').byte := by rw [h]
    _ = b' := (classify_row hwf b').byte_eq (h ▸ hv)

/-- The kind of a sendable byte, and that no other byte has one (rules R185 and R186). -/
theorem sendKind_classify {c : Config} (hwf : c.wf = true) (b : Byte) :
    sendKind c (classify c b) =
      if b.toNat ≤ 0x13 then c.catalog[b.toNat]?
      else if c.vendorLo.toNat ≤ b.toNat ∧ b.toNat ≤ 0xFE then some .vend
      else none := by
  have hlo80 := (Config.vendorLo_bounds_of_wf hwf).1
  have hrow := classify_row hwf b
  generalize classify c b = x at hrow ⊢
  cases hrow with
  | catalog h => rw [if_pos h, Config.catalog_getElem?_of_wf hwf h]; rfl
  | vendor h80 hlo hhi => rw [if_neg (by omega), if_pos ⟨hlo, hhi⟩]; rfl
  | endMark _ | invalid _ _ | vendorEnd _ => rw [if_neg (by omega), if_neg (by omega)]; rfl
  | vendorStart h hv =>
    have hlo : c.vendorLo.toNat = 0x81 := congrArg BitVec.toNat hv
    rw [if_neg (by omega), if_neg (by omega)]
    rfl

/-! TYPE.CLASS (rule R190). -/

/-- The class code TYPE.CLASS puts in RES0 for a valid class. -/
def TypeClass.code : TypeClass → Word
  | .catalog _ => 1
  | .endMark => 2
  | .vendorStart => 3
  | .vendor _ => 4
  | .vendorEnd => 5
  | .invalid => 0

/-- What TYPE.CLASS puts in RES1 for a kind: the kind's code and, from bit 8 up, its payload length. -/
def kindWord (k : Kind) : Word := wordOf (kindCode k + payloadLen k 0 * 2 ^ 8)

section
variable {s : State} {b : Byte}

theorem typeClass_of_invalid (h : classify s.cfg b = .invalid) :
    s.CompletesOnly (.typeClass b) .unrecognizedPacketId (BitVec.ofNat 32 b.toNat) 0 := by
  refine State.completesOnly_of_exec (show execTypeClass b s = _ from ?_)
  rw [execTypeClass, h, BitVec.ofNat_toNat]
  rfl

/-- A valid class without a kind is a sentinel, and RES1 is 0. -/
theorem typeClass_of_sentinel {x : TypeClass} (h : classify s.cfg b = x) (hv : x ≠ .invalid)
    (hk : sendKind s.cfg x = none) : s.CompletesOnly (.typeClass b) .ok x.code 0 := by
  refine State.completesOnly_of_exec (show execTypeClass b s = _ from ?_)
  rw [execTypeClass, h]
  cases x with
  | endMark | vendorStart | vendorEnd => rfl
  | catalog _ | vendor _ => cases hk
  | invalid => exact absurd rfl hv

/-- A class with a kind is sendable, and RES1 tells the kind. -/
theorem typeClass_of_sendKind {x : TypeClass} {k : Kind} (h : classify s.cfg b = x)
    (hk : sendKind s.cfg x = some k) : s.CompletesOnly (.typeClass b) .ok x.code (kindWord k) := by
  refine State.completesOnly_of_exec (show execTypeClass b s = _ from ?_)
  rw [execTypeClass, h]
  cases x with
  | catalog _ | vendor _ => cases hk; rfl
  | endMark | vendorStart | vendorEnd | invalid => cases hk

end

/-- Settles O38: the clauses on the registry are the rows of R185's table, each of which `classify` answers, and
TYPE.CLASS answers row by row. -/
theorem typeRegistryAndTypeClass : Obligations.TypeRegistryAndTypeClass := by
  refine ⟨fun c b hwf => ⟨fun h => (ClassRow.catalog h).classify_eq, fun h => (ClassRow.endMark h).classify_eq,
    fun hlo hhi => (ClassRow.invalid hlo hhi).classify_eq, fun h hv => (ClassRow.vendorStart h hv).classify_eq,
    fun h hv => ?vendorAt80, fun hlo hhi => ?vendor, fun h => (ClassRow.vendorEnd h).classify_eq,
    fun b' => classify_inj hwf, sendKind_classify hwf b⟩, fun s b hwf => ?typeClass⟩
  case vendorAt80 =>
    have hlo : c.vendorLo.toNat = 0x80 := congrArg BitVec.toNat hv
    exact (ClassRow.vendor (by omega) (by omega) (by omega)).classify_eq
  case vendor =>
    have hlo81 := (Config.vendorLo_bounds_of_wf hwf).2
    exact (ClassRow.vendor (by omega) (by omega) hhi).classify_eq
  case typeClass =>
    have hrow := classify_row hwf b
    generalize hx : classify s.cfg b = x at hrow ⊢
    cases hrow with
    | invalid _ _ => exact typeClass_of_invalid hx
    | endMark _ | vendorStart _ _ | vendorEnd _ => exact typeClass_of_sentinel hx nofun rfl
    | vendor _ _ _ => exact typeClass_of_sendKind hx rfl
    | catalog h =>
      refine ⟨catalogKind s.cfg b, Config.catalog_getElem?_of_wf hwf h, ?_⟩
      have hdone := typeClass_of_sendKind hx rfl
      generalize catalogKind s.cfg b = k at hdone ⊢
      cases k with
      | obj | mrk | acc | ver | fix n | var | vend => exact hdone

end Sys2Proof.Machine
end

section
/-! PROOFS. The SLIP commands of 40_slip.md: the state each of SLIP.ENC, SLIP.DEC and SLIP.RX ends in, branch by branch,
once its range checks pass and the bytes it reads are Known. -/

namespace Sys2Proof.Machine

/-! SLIP.ENC (rules R146 and R147). -/

section
variable {s : State} {src len dst cap : Word} {data : List Byte}

/-- With its checks passed and its data Known, SLIP.ENC turns on nothing but the capacity. -/
theorem exec_slipEnc (hsrc : src.toNat + len.toNat ≤ s.cfg.bufBytes) (hdst : dst.toNat + cap.toNat ≤ s.cfg.bufBytes)
    (hapart : Apart src.toNat len.toNat dst.toNat cap.toNat) (hlen : data.length = len.toNat)
    (hdata : s.buf.Holds src.toNat data) :
    exec (.slipEnc src len dst cap) s = .next
      (if (slipEncode data).length ≤ cap.toNat then
        (s.store dst.toNat (slipEncode data)).complete .ok (wordOf (slipEncode data).length) 0
      else
        (s.makeUnknown dst.toNat cap.toNat).complete .notEnoughCapacity
          (wordOf (min (slipEncode data).length 0xFFFFFFFF)) 0) := by
  rw [show exec (.slipEnc src len dst cap) s = execSlipEnc src len dst cap s from rfl, execSlipEnc,
    withRanges_of_apart 0 2 _ hsrc hdst hapart, State.reading_of_holds _ hlen hdata]
  by_cases hfit : (slipEncode data).length ≤ cap.toNat
  · rw [if_pos hfit]
    exact if_neg (Nat.not_lt.2 hfit)
  · rw [if_neg hfit]
    exact if_pos (Nat.not_le.1 hfit)

end

/-- Settles O30: the encoding is stored when it fits, and the output range is forgotten when it does not. -/
theorem slipEncEncodesOrLacksCapacity : Obligations.SlipEncEncodesOrLacksCapacity := by
  intro s src len dst cap data hsrc hdst hapart hlen hdata
  refine ⟨_, exec_slipEnc hsrc hdst hapart hlen hdata, ?_⟩
  by_cases hfit : (slipEncode data).length ≤ cap.toNat
  · rw [if_pos hfit, if_pos hfit]
    exact ⟨rfl, State.complete_completes rfl rfl _ _ _, Memory.write_stores _ _ _⟩
  · rw [if_neg hfit, if_neg hfit]
    exact ⟨rfl, State.complete_completes rfl rfl _ _ _, Memory.forget_forgets _ _ _⟩

/-! SLIP.DEC (rules R143 and R144). -/

section
variable {s : State} {off len : Word} {body : List Byte}

/-- With its range in BUF and its body Known, SLIP.DEC turns on nothing but what the body decodes to. -/
theorem exec_slipDec (hrange : off.toNat + len.toNat ≤ s.cfg.bufBytes) (hlen : body.length = len.toNat)
    (hbody : s.buf.Holds off.toNat body) :
    (∀ out, slipDecode body = .ok out →
      exec (.slipDec off len) s = .next ((s.store off.toNat out).complete .ok (wordOf out.length) 0)) ∧
    ∀ kind k, slipDecode body = .error (kind, k) →
      exec (.slipDec off len) s = .next
        (((s.makeUnknown off.toNat len.toNat).count countFrameErr).complete (slipErrorCode kind) (wordOf k) 0) := by
  rw [show exec (.slipDec off len) s = execSlipDec off len s from rfl, execSlipDec, withRange_eq, if_pos hrange,
    State.reading_of_holds _ hlen hbody]
  refine ⟨fun out hout => ?_, fun kind k herr => ?_⟩
  · rw [hout]
    rfl
  · rw [herr]
    rfl

end

/-- Settles O31: the output is stored over the body, or the body is forgotten and the error counted. -/
theorem slipDecDecodesInPlace : Obligations.SlipDecDecodesInPlace := by
  intro s off len body hrange hlen hbody
  obtain ⟨hok, herr⟩ := exec_slipDec hrange hlen hbody
  cases hdec : slipDecode body with
  | ok out =>
    exact ⟨_, hok out hdec, State.complete_completes rfl rfl _ _ _, Memory.write_stores _ _ _, rfl⟩
  | error e =>
    obtain ⟨kind, k⟩ := e
    exact ⟨_, herr kind k hdec, State.complete_completes rfl rfl _ _ _, Memory.forget_forgets _ _ _, rfl⟩

/-! SLIP.RX (rules R151 to R155). -/

section
variable {s : State} {byte : Byte} {ch : Word} {c : RxChannel} {body : List Byte}

/-- Changing a channel that is there is setting it. -/
theorem State.updateRx_eq_set {i : Nat} (hc : s.rx[i]? = some c) (f : RxChannel → RxChannel) :
    s.updateRx i f = { s with rx := s.rx.set i (f c) } := by
  rw [State.updateRx, modify_eq_set f hc]

/-- On a channel whose area lies in BUF, SLIP.RX of END is `rxEnd`. -/
theorem exec_slipRx_end (hc : s.rx[ch.toNat]? = some c) (harea : c.base.toNat + c.cap.toNat ≤ s.cfg.bufBytes) :
    exec (.slipRx slipEnd ch) s = rxEnd ch.toNat c s := by
  rw [show exec (.slipRx slipEnd ch) s = execSlipRx slipEnd ch s from rfl, execSlipRx, hc]
  simp [inRange, harea]

/-- On a channel whose area lies in BUF, SLIP.RX of a byte other than END discards it, overflows or stores it. -/
theorem exec_slipRx_data (hc : s.rx[ch.toNat]? = some c) (harea : c.base.toNat + c.cap.toNat ≤ s.cfg.bufBytes)
    (hbyte : byte ≠ slipEnd) :
    exec (.slipRx byte ch) s =
      if c.dropping then s.finish 0 0
      else if c.len = c.cap then rxOverflow ch.toNat c s
      else rxStore ch.toNat c byte s := by
  rw [show exec (.slipRx byte ch) s = execSlipRx byte ch s from rfl, execSlipRx, hc]
  simp [inRange, harea, hbyte]

/-- `rxOverflow` on a channel that is there. -/
theorem rxOverflow_eq (hc : s.rx[ch.toNat]? = some c) :
    rxOverflow ch.toNat c s = .next
      ({ s with
        rx := s.rx.set ch.toNat { c with dropping := true }
        counters := countRxOverflow s.counters }.complete .rxOverflow c.cap 0) := by
  rw [rxOverflow, State.updateRx_eq_set hc]
  rfl

/-- `rxStore` on a channel that is there. -/
theorem rxStore_eq (hc : s.rx[ch.toNat]? = some c) :
    rxStore ch.toNat c byte s = .next
      ({ s with
        buf := s.buf.write (c.base.toNat + c.len.toNat) [byte]
        rx := s.rx.set ch.toNat { c with len := c.len + 1 } }.complete .ok (c.len + 1) 0) := by
  have hc' : (s.store (c.base.toNat + c.len.toNat) [byte]).rx[ch.toNat]? = some c := hc
  rw [rxStore, State.updateRx_eq_set hc']
  rfl

/-- END on a channel that is dropping a frame. -/
theorem rxEnd_of_dropping (hc : s.rx[ch.toNat]? = some c) (hdrop : c.dropping) :
    rxEnd ch.toNat c s = .next
      ({ s with rx := s.rx.set ch.toNat { c with len := 0, dropping := false } }.complete .ok 0 3) := by
  rw [rxEnd, if_pos hdrop, State.updateRx_eq_set hc]
  rfl

/-- END on a channel that holds nothing. -/
theorem rxEnd_of_empty (hdrop : ¬ c.dropping) (hempty : c.len = 0) :
    rxEnd ch.toNat c s = .next (s.complete .ok 0 2) := by
  rw [rxEnd, if_neg hdrop, if_pos hempty]
  rfl

/-- END on a channel that holds a Known frame body turns on nothing but what the body decodes to. -/
theorem rxEnd_of_body (hc : s.rx[ch.toNat]? = some c) (hdrop : ¬ c.dropping) (hempty : c.len ≠ 0)
    (hlen : body.length = c.len.toNat) (hbody : s.buf.Holds c.base.toNat body) :
    (∀ out, slipDecode body = .ok out →
      rxEnd ch.toNat c s = .next
        ({ s with
          buf := s.buf.write c.base.toNat out
          rx := s.rx.set ch.toNat { c with len := 0 }
          counters := countFramesOk s.counters }.complete .ok (wordOf out.length) 1)) ∧
    ∀ kind k, slipDecode body = .error (kind, k) →
      rxEnd ch.toNat c s = .next
        ({ s with
          buf := s.buf.forget c.base.toNat c.len.toNat
          rx := s.rx.set ch.toNat { c with len := 0 }
          counters := countFrameErr s.counters }.complete (slipErrorCode kind) (wordOf k) 0) := by
  rw [rxEnd, if_neg hdrop, if_neg hempty, State.updateRx_eq_set hc,
    State.reading_of_holds _ hlen hbody]
  refine ⟨fun out hout => ?_, fun kind k herr => ?_⟩
  · rw [hout]
    rfl
  · rw [herr]
    rfl

end

/-- Settles O32: DROPPING and the room left in the area pick one of the three branches. -/
theorem slipRxOfADataByte : Obligations.SlipRxOfADataByte := by
  intro s byte ch c hc harea hbyte
  rw [exec_slipRx_data hc harea hbyte]
  by_cases hdrop : c.dropping = true
  · simp only [if_pos hdrop]
    exact ⟨_, rfl, State.complete_completes rfl rfl _ _ _, rfl⟩
  by_cases hfull : c.len = c.cap
  · simp only [if_neg hdrop, if_pos hfull]
    exact ⟨_, rxOverflow_eq hc, State.complete_completes rfl rfl _ _ _, rfl⟩
  · simp only [if_neg hdrop, if_neg hfull]
    exact ⟨_, rxStore_eq hc, State.complete_completes rfl rfl _ _ _, Memory.write_stores _ _ _, rfl⟩

/-- Settles O33: END ends a dropped frame, an empty one, or a body that decodes or fails to. -/
theorem slipRxOfEnd : Obligations.SlipRxOfEnd := by
  intro s ch c body hc harea hknown
  rw [show 0xC0#8 = slipEnd from rfl, exec_slipRx_end hc harea]
  by_cases hdrop : c.dropping = true
  · simp only [if_pos hdrop]
    exact ⟨_, rxEnd_of_dropping hc hdrop, State.complete_completes rfl rfl _ _ _, rfl⟩
  by_cases hempty : c.len = 0
  · simp only [if_neg hdrop, if_pos hempty]
    exact ⟨_, rxEnd_of_empty hdrop hempty, State.complete_completes rfl rfl _ _ _, rfl⟩
  simp only [if_neg hdrop, if_neg hempty]
  obtain ⟨hlen, hbody⟩ := hknown (Bool.eq_false_iff.2 hdrop)
  obtain ⟨hok, herr⟩ := rxEnd_of_body hc hdrop hempty hlen hbody
  cases hdec : slipDecode body with
  | ok out =>
    exact ⟨_, hok out hdec, State.complete_completes rfl rfl _ _ _, Memory.write_stores _ _ _, rfl⟩
  | error e =>
    obtain ⟨kind, k⟩ := e
    exact ⟨_, herr kind k hdec, State.complete_completes rfl rfl _ _ _, Memory.forget_forgets _ _ _, rfl⟩

end Sys2Proof.Machine
end

section
/-! PROOFS. The MotData commands of 41_packet.md: what the sixteen wire bytes are in terms of the fourteen words of a
host record, what the fourteen words are in terms of the bytes, and the state each command ends in. -/

namespace Sys2Proof.Machine

/-! From the fourteen words to the sixteen bytes (rules R188 and R189). -/

/-- Word `i` of a sequence of words laid out as bytes. -/
theorem wordAt_flatMap_le32 (ws : List Word) (i : Nat) : wordAt (ws.flatMap le32) (4 * i) = ws.getD i 0 := by
  induction ws generalizing i with
  | nil => simp [wordAt, byteAt, u32le]
  | cons w ws ih =>
    rw [List.flatMap_cons]
    cases i with
    | zero => exact wordAt_le32 w _
    | succ i =>
      rw [wordAt_append_right _ _ (by rw [length_le32]; omega), length_le32, Nat.mul_succ, Nat.add_sub_cancel, ih]
      rfl

/-- Cutting a word to a field's width leaves the bits below that width as they are. -/
theorem extractLsb'_setWidth_eq_ofNat (x : Word) {n i k : Nat} (h : i + k ≤ n) :
    (x.setWidth n).extractLsb' i k = BitVec.ofNat k (x.toNat / 2 ^ i) := by
  apply BitVec.eq_of_getLsbD_eq
  intro j hj
  have hin : i + j < n := by omega
  simp [hj, hin, Nat.testBit_div_two_pow, BitVec.getLsbD, Nat.add_comm]

/-- The fields of a record of fourteen words, each word cut to its field's width. -/
def motOfWords (area cx cy avg mx rng rad d0 d1 d2 d3 asp vx vy : Word) : MotData :=
  ⟨area.setWidth 16, cx.setWidth 12, cy.setWidth 12, avg.setWidth 8, mx.setWidth 8, rng.setWidth 4, rad.setWidth 4,
    d0.setWidth 7, d1.setWidth 7, d2.setWidth 7, d3.setWidth 7, asp.setWidth 8, vx.setWidth 8, vy.setWidth 8⟩

section
variable (area cx cy avg mx rng rad d0 d1 d2 d3 asp vx vy : Word)

theorem motOfRecord_flatMap_le32 :
    motOfRecord ([area, cx, cy, avg, mx, rng, rad, d0, d1, d2, d3, asp, vx, vy].flatMap le32) 0 =
      motOfWords area cx cy avg mx rng rad d0 d1 d2 d3 asp vx vy := by
  have hword := wordAt_flatMap_le32 [area, cx, cy, avg, mx, rng, rad, d0, d1, d2, d3, asp, vx, vy]
  simp only [motOfRecord, motOfWords, hword 0, hword 1, hword 2, hword 3, hword 4, hword 5, hword 6, hword 7, hword 8,
    hword 9, hword 10, hword 11, hword 12, hword 13]
  rfl

theorem motPack_motOfWords :
    motPack (motOfWords area cx cy avg mx rng rad d0 d1 d2 d3 asp vx vy) =
      [area.toNat, area.toNat / 256, cx.toNat, cx.toNat / 256 % 16, cy.toNat, cy.toNat / 256 % 16, avg.toNat, mx.toNat,
        rng.toNat % 16 * 16 + rad.toNat % 16, d0.toNat % 128, d1.toNat % 128, d2.toNat % 128, d3.toNat % 128,
        asp.toNat, vx.toNat, vy.toNat].map (BitVec.ofNat 8) := by
  have hhigh (n : Nat) : (BitVec.ofNat 4 n).setWidth 8 = BitVec.ofNat 8 (n % 16) := by
    rw [← BitVec.ofNat_toNat, BitVec.toNat_ofNat]
  have hseven (w : Word) : (w.setWidth 7).setWidth 8 = BitVec.ofNat 8 (w.toNat % 128) := by
    rw [← BitVec.ofNat_toNat, BitVec.toNat_setWidth]
  have hnibbles : rng.setWidth 4 ++ rad.setWidth 4 = BitVec.ofNat 8 (rng.toNat % 16 * 16 + rad.toNat % 16) := by
    apply BitVec.eq_of_toNat_eq
    rw [toNat_append_eq, BitVec.toNat_setWidth, BitVec.toNat_setWidth, BitVec.toNat_ofNat]
    omega
  simp (disch := decide) only [motPack, motOfWords, extractLsb'_setWidth_eq_ofNat, hhigh, hseven, hnibbles,
    Nat.reducePow, Nat.div_one, BitVec.ofNat_toNat, List.map_cons, List.map_nil]

end

/-! From the sixteen bytes to the fourteen words (rule R189). -/

/-- The fourteen fields as numbers, in the order of the host record. -/
def MotData.fields (h : MotData) : List Nat :=
  [h.area.toNat, h.cx.toNat, h.cy.toNat, h.avgBrightness.toNat, h.maxBrightness.toNat, h.range.toNat, h.radius.toNat,
    h.boundary0.toNat, h.boundary1.toNat, h.boundary2.toNat, h.boundary3.toNat, h.aspectRatio.toNat, h.vx.toNat,
    h.vy.toNat]

/-- The host record is its fields, each as a word. -/
theorem motRecord_eq_flatMap (h : MotData) : motRecord h = h.fields.flatMap fun n => le32 (BitVec.ofNat 32 n) := by
  simp only [motRecord, MotData.fields, List.flatMap_cons, List.flatMap_nil, BitVec.ofNat_toNat, List.append_assoc,
    List.append_nil]

/-- A 12-bit field: a whole byte, and above it the low half of the next one. -/
theorem nibble_append_toNat (lo hi : Byte) :
    (hi.extractLsb' 0 4 ++ lo).toNat = lo.toNat + 256 * (hi.toNat % 16) := by
  rw [toNat_append_eq, toNat_extract_eq]
  omega

theorem fields_motUnpack (b0 b1 b2 b3 b4 b5 b6 b7 b8 b9 b10 b11 b12 b13 b14 b15 : Byte) :
    (motUnpack [b0, b1, b2, b3, b4, b5, b6, b7, b8, b9, b10, b11, b12, b13, b14, b15] 0).fields =
      [b0.toNat + 256 * b1.toNat, b2.toNat + 256 * (b3.toNat % 16), b4.toNat + 256 * (b5.toNat % 16), b6.toNat,
        b7.toNat, b8.toNat / 16, b8.toNat % 16, b9.toNat % 128, b10.toNat % 128, b11.toNat % 128, b12.toNat % 128,
        b13.toNat, b14.toNat, b15.toNat] := by
  have harea : (u16le b0 b1).toNat = b0.toNat + 256 * b1.toNat := u16le_toNat b0 b1
  have hhigh : (b8.extractLsb' 4 4).toNat = b8.toNat / 16 := by
    have := b8.isLt
    rw [toNat_extract_eq]
    omega
  have hlow (b : Byte) (k : Nat) : (b.extractLsb' 0 k).toNat = b.toNat % 2 ^ k := by
    rw [toNat_extract_eq, Nat.pow_zero, Nat.div_one]
  simp [MotData.fields, motUnpack, halfAt, byteAt, harea, hhigh, hlow, nibble_append_toNat]

/-! The two commands (rules R212 and R213). -/

section
variable {s : State} {src dst : Word}

/-- With its checks passed and its record Known, MOT.PACK stores the packed record. -/
theorem exec_motPack {r : List Byte} (hsrc : src.toNat + 56 ≤ s.cfg.bufBytes)
    (hdst : dst.toNat + 16 ≤ s.cfg.bufBytes) (hapart : Apart src.toNat 56 dst.toNat 16) (hlen : r.length = 56) (hr : s.buf.Holds src.toNat r) :
    exec (.motPack src dst) s = .next ((s.store dst.toNat (motPack (motOfRecord r 0))).complete .ok 16 0) := by
  rw [show exec (.motPack src dst) s = execMotPack src dst s from rfl, execMotPack,
    withRanges_of_apart 0 1 _ hsrc hdst hapart, State.reading_of_holds _ hlen hr]
  rfl

/-- With its checks passed and its bytes Known, MOT.UNPACK stores the unpacked record. -/
theorem exec_motUnpack {bs : List Byte} (hsrc : src.toNat + 16 ≤ s.cfg.bufBytes)
    (hdst : dst.toNat + 56 ≤ s.cfg.bufBytes) (hapart : Apart src.toNat 16 dst.toNat 56) (hlen : bs.length = 16)
    (hbs : s.buf.Holds src.toNat bs) :
    exec (.motUnpack src dst) s = .next ((s.store dst.toNat (motRecord (motUnpack bs 0))).complete .ok 56 0) := by
  rw [show exec (.motUnpack src dst) s = execMotUnpack src dst s from rfl, execMotUnpack,
    withRanges_of_apart 0 1 _ hsrc hdst hapart, State.reading_of_holds _ hlen hbs]
  rfl

end

/-- Settles O49: each command stores its conversion of the bytes it reads, and that conversion is the one of rule R189's
table, field by field. -/
theorem motCommandsConvertTheRecord : Obligations.MotCommandsConvertTheRecord := by
  refine ⟨fun s record dst area cx cy avg mx rng rad d0 d1 d2 d3 asp vx vy hrec hdst hapart hknown => ?pack,
    fun s src record b0 b1 b2 b3 b4 b5 b6 b7 b8 b9 b10 b11 b12 b13 b14 b15 hsrc hrec hapart hknown => ?unpack⟩
  case pack =>
    refine ⟨_, exec_motPack hrec hdst hapart rfl hknown, State.complete_completes rfl rfl _ _ _, ?_, rfl⟩
    rw [motOfRecord_flatMap_le32, motPack_motOfWords]
    exact Memory.write_stores _ _ _
  case unpack =>
    refine ⟨_, exec_motUnpack hsrc hrec hapart rfl hknown, State.complete_completes rfl rfl _ _ _, ?_, rfl⟩
    rw [motRecord_eq_flatMap, fields_motUnpack]
    exact Memory.write_stores _ _ _

end Sys2Proof.Machine
end

section
/-! PROOFS. The illegal command of 44_control.md: which latched words are commands, and how the Engine's step ends at a
word that is none. -/

namespace Sys2Proof.Machine

/-- Only a word with bits 31:8 all 0 and an opcode of the operand table decodes (30_encoding.md rules R104 and R105). -/
theorem word_assigned_of_decode {l : Latch} {i : Instr} (h : decode l = .ok i) :
    l.lop.extractLsb' 8 24 = 0 ∧ l.lop.setWidth 8 ∈ operandTable.map Prod.fst := by
  unfold decode at h
  split at h
  case isTrue hreserved => cases h
  case isFalse hreserved =>
    refine ⟨not_not.1 hreserved, ?_⟩
    split at h
    case h_25 => cases h
    all_goals next hop => rw [hop]; decide

/-- The opcode is the CMD word's low byte, so an assigned word's number modulo 256 is one of the table's. -/
theorem opcode_mem_of_decode {l : Latch} {i : Instr} (h : decode l = .ok i) :
    l.lop.toNat % 256 ∈ operandTable.map fun row => row.1.toNat := by
  obtain ⟨-, hop⟩ := word_assigned_of_decode h
  obtain ⟨row, hrow, heq⟩ := List.mem_map.1 hop
  exact List.mem_map.2 ⟨row, hrow, by rw [heq, BitVec.toNat_setWidth]⟩

/-- The Engine's step at a pending word that is no command is IllegalCommand's completion (rule R312). -/
theorem step_of_decode_error {s : State} {p : Nat} {rest : List AgentStep} {pt : Port} {e : DecodeError}
    (h : s.agenda = .engine p :: rest) (hpt : s.ports[p]? = some pt) (hpend : pt.pending = true)
    (hdec : decode pt.latch = .error e) :
    step s = .next (({ s with agenda := rest, served := p } : State).complete .illegalCommand pt.latch.lop 0) := by
  rw [step_cons h, agentStep, engineStep, hpt]
  simp only [hpend, if_true, hdec]
  rfl

/-- Settles O6: neither kind of illegal word decodes, so the step is the completion with IllegalCommand. -/
theorem illegalWordCompletesWithIllegalCommand : Obligations.IllegalWordCompletesWithIllegalCommand := by
  intro s p rest pt h hpt hpend hillegal
  cases hdec : decode pt.latch with
  | ok i =>
    rcases hillegal with hreserved | hopcode
    · exact absurd (word_assigned_of_decode hdec).1 hreserved
    · exact absurd (opcode_mem_of_decode hdec) hopcode
  | error e => exact ⟨_, step_of_decode_error h hpt hpend hdec, State.complete_completes rfl rfl _ _ _, rfl⟩

end Sys2Proof.Machine
end

section
/-! PROOFS. Reset and the configuration (70_reset_and_hazards.md): one rule, for each way a command is put together, for
what holds of every state its result answers; by these rules, no step changes the configuration; and what the reset event
leaves. -/

namespace Sys2Proof.Machine

/-! A property of every state a result can answer, with one rule for each way a command is put together. -/

/-- Whatever next state the result answers has the property; a fault or a refusal answers none. -/
def Result.Ensures (P : State → Prop) (r : Result) : Prop := ∀ t, r = .next t → P t

namespace Result.Ensures

variable {P : State → Prop} {s : State} {r r' : Result}

theorem next (h : P s) : Result.Ensures P (.next s) := by
  rintro t ⟨⟩
  exact h

theorem refused (x : Refusal) : Result.Ensures P (.refused x) := nofun

theorem finish {r0 r1 : Word} (h : P (s.complete .ok r0 r1)) : (s.finish r0 r1).Ensures P := next h

theorem raise {code : StatusCode} {r0 : Word} (h : P (s.complete code r0 0)) : (s.raise code r0).Ensures P := next h

theorem hold (h : P s) : s.hold.Ensures P := next h

theorem ite {c : Prop} [Decidable c] (h : r.Ensures P) (h' : r'.Ensures P) : Result.Ensures P (if c then r else r') := by
  split
  · exact h
  · exact h'

theorem reading {a n : Nat} {k : List Byte → Result} (h : ∀ bs, (k bs).Ensures P) : (s.reading a n k).Ensures P := by
  intro t ht
  obtain ⟨bs, -, hk⟩ := State.reading_next ht
  exact h bs t hk

theorem withRange {k a n : Nat} (hbad : P (s.complete .badAddress (wordOf k) 0)) (h : r.Ensures P) :
    (withRange s k a n r).Ensures P := by
  rw [withRange_eq]
  exact ite h (next hbad)

theorem withRanges {ka a n kb b m : Nat} (ha : P (s.complete .badAddress (wordOf ka) 0))
    (hb : P (s.complete .badAddress (wordOf kb) 0)) (hover : P (s.complete .overlap 0 0)) (h : r.Ensures P) :
    (withRanges s ka a n kb b m r).Ensures P :=
  withRange ha (withRange hb (ite (raise hover) h))

end Result.Ensures

/-! No command changes the configuration (rule R362). Each proof has the shape of the command's definition. -/

/-- Every state the result answers has the configuration of `s`. -/
abbrev Result.KeepsConfig (s : State) (r : Result) : Prop := r.Ensures (·.cfg = s.cfg)

section
variable {s : State}

/-! 40_slip.md. -/

theorem execSlipEnc_keepsConfig {src len dst cap : Word} : (execSlipEnc src len dst cap s).KeepsConfig s :=
  .withRanges rfl rfl rfl (.reading fun _ => .ite (.raise rfl) (.finish rfl))

theorem execSlipDec_keepsConfig {off len : Word} : (execSlipDec off len s).KeepsConfig s := by
  refine .withRange rfl (.reading fun body => ?_)
  cases slipDecode body with
  | ok out => exact .finish rfl
  | error e => exact .raise rfl

theorem rxEnd_keepsConfig {ch : Nat} {c : RxChannel} : (rxEnd ch c s).KeepsConfig s := by
  refine .ite (.finish rfl) (.ite (.finish rfl) (.reading fun body => ?_))
  cases slipDecode body with
  | ok out => exact .finish rfl
  | error e => exact .raise rfl

theorem execSlipRx_keepsConfig {byte : Byte} {ch : Word} : (execSlipRx byte ch s).KeepsConfig s := by
  unfold execSlipRx
  cases s.rx[ch.toNat]? with
  | none => exact .raise rfl
  | some c =>
    exact .ite (.ite rxEnd_keepsConfig (.ite (.finish rfl) (.ite (.raise rfl) (.finish rfl)))) (.raise rfl)

theorem execSlipRxclr_keepsConfig {ch : Word} : (execSlipRxclr ch s).KeepsConfig s := by
  unfold execSlipRxclr
  cases s.rx[ch.toNat]? with
  | none => exact .raise rfl
  | some c => exact .finish rfl

/-! 41_packet.md. -/

theorem execTypeClass_keepsConfig {b : Byte} : (execTypeClass b s).KeepsConfig s := by
  unfold execTypeClass
  cases classify s.cfg b with
  | invalid => exact .raise rfl
  | catalog _ | endMark | vendorStart | vendor _ | vendorEnd => exact .finish rfl

section
variable {record dst cap plen len : Nat} {t id : Byte} {k : Kind}

theorem serWrite_keepsConfig {readLen : Nat} : (serWrite record dst cap t id k plen readLen s).KeepsConfig s :=
  .ite (.raise rfl) (.reading fun _ => .finish rfl)

theorem serChecked_keepsConfig : (serChecked record dst cap t id k len s).KeepsConfig s := by
  cases k with
  | vend => exact .reading fun _ => .ite (.raise rfl) serWrite_keepsConfig
  | fix _ | var => exact .ite (.raise rfl) serWrite_keepsConfig
  | obj | mrk | acc | ver => exact serWrite_keepsConfig

theorem serSized_keepsConfig : (serSized record dst cap t id k len s).KeepsConfig s :=
  .withRanges rfl rfl rfl serChecked_keepsConfig

theorem serKind_keepsConfig : (serKind record dst cap t id k s).KeepsConfig s := by
  cases k with
  | fix _ | var => exact .withRange rfl (.reading fun _ => serSized_keepsConfig)
  | obj | mrk | acc | ver | vend => exact serSized_keepsConfig

end

theorem execPktSer_keepsConfig {record dst cap : Word} : (execPktSer record dst cap s).KeepsConfig s := by
  refine .withRange rfl (.reading fun h => ?_)
  dsimp only
  cases classify s.cfg ((wordAt h 0).setWidth 8) with
  | invalid | endMark | vendorStart | vendorEnd => exact .raise rfl
  | catalog _ | vendor _ => exact serKind_keepsConfig

section
variable {src len record cap : Nat} {t id : Byte} {k : Kind} {p : List Byte}

theorem parseError_keepsConfig {code : StatusCode} {r0 : Word} : (parseError code r0 s).KeepsConfig s := .raise rfl

theorem parseWrite_keepsConfig : (parseWrite record cap t id k p s).KeepsConfig s := .ite (.raise rfl) (.finish rfl)

theorem parseChecked_keepsConfig : (parseChecked record cap t id k p s).KeepsConfig s := by
  cases k with
  | vend => exact .ite parseError_keepsConfig parseWrite_keepsConfig
  | fix _ | var =>
    unfold parseChecked
    cases Config.opaqueValidate t p with
    | accepted => exact parseWrite_keepsConfig
    | unrecognizedPort | unrecognizedStreamUpdateAction _ | invalidBitPattern => exact parseError_keepsConfig
  | obj | mrk | acc | ver => exact parseWrite_keepsConfig

theorem parseSized_keepsConfig {plen : Nat} : (parseSized src len record cap t k plen s).KeepsConfig s :=
  .ite parseError_keepsConfig (.reading fun _ => .reading fun _ => parseChecked_keepsConfig)

theorem parseKind_keepsConfig : (parseKind src len record cap t k s).KeepsConfig s := by
  cases k with
  | var => exact .reading fun _ => .ite parseError_keepsConfig parseSized_keepsConfig
  | obj | mrk | acc | ver | vend | fix _ => exact parseSized_keepsConfig

end

theorem execPktParse_keepsConfig {src len record cap : Word} : (execPktParse src len record cap s).KeepsConfig s := by
  refine .withRanges rfl rfl rfl (.ite parseError_keepsConfig (.reading fun h => ?_))
  dsimp only
  cases sendKind s.cfg (classify s.cfg (byteAt h 0)) with
  | none => exact parseError_keepsConfig
  | some k => exact parseKind_keepsConfig

theorem execMotPack_keepsConfig {record dst : Word} : (execMotPack record dst s).KeepsConfig s :=
  .withRanges rfl rfl rfl (.reading fun _ => .finish rfl)

theorem execMotUnpack_keepsConfig {src record : Word} : (execMotUnpack src record s).KeepsConfig s :=
  .withRanges rfl rfl rfl (.reading fun _ => .finish rfl)

/-! 43_hub.md. -/

theorem execHubAttach_keepsConfig {u : Uuid} : (execHubAttach u s).KeepsConfig s :=
  .ite (.finish rfl) (.ite (.raise rfl) (.ite (.hold rfl) (.finish (State.notify_cfg _))))

theorem execHubDetach_keepsConfig {u : Uuid} : (execHubDetach u s).KeepsConfig s :=
  .ite (.finish rfl) (.ite (.hold rfl) (.finish (State.notify_cfg _)))

theorem execHubRouteout_keepsConfig {u : Uuid} {off len : Word} : (execHubRouteout u off len s).KeepsConfig s :=
  .withRange rfl (.ite (.finish rfl) (.ite (.hold rfl) (.reading fun _ => .finish rfl)))

theorem execHubRoutein_keepsConfig {u : Uuid} {off len : Word} : (execHubRoutein u off len s).KeepsConfig s :=
  .withRange rfl (.ite (.hold rfl) (.reading fun _ => .finish rfl))

theorem execHubRequest_keepsConfig : (execHubRequest s).KeepsConfig s := .ite (.hold rfl) (.finish rfl)

theorem execHubSub_keepsConfig : (execHubSub s).KeepsConfig s := .ite (.hold rfl) (.finish rfl)

/-- No command changes the configuration. -/
theorem exec_keepsConfig {i : Instr} : Result.KeepsConfig s (exec i s) := by
  cases i with
  | slipEnc src len dst cap => exact execSlipEnc_keepsConfig
  | slipDec off len => exact execSlipDec_keepsConfig
  | slipRx byte ch => exact execSlipRx_keepsConfig
  | slipRxclr ch => exact execSlipRxclr_keepsConfig
  | typeClass b => exact execTypeClass_keepsConfig
  | pktSer record dst cap => exact execPktSer_keepsConfig
  | pktParse src len record cap => exact execPktParse_keepsConfig
  | motPack record dst => exact execMotPack_keepsConfig
  | motUnpack src record => exact execMotUnpack_keepsConfig
  | hubAttach u => exact execHubAttach_keepsConfig
  | hubDetach u => exact execHubDetach_keepsConfig
  | hubRouteout u off len => exact execHubRouteout_keepsConfig
  | hubRoutein u off len => exact execHubRoutein_keepsConfig
  | hubRequest => exact execHubRequest_keepsConfig
  | hubSub => exact execHubSub_keepsConfig
  | nop | mrkPack _ _ | mrkUnpack _ | convA2w _ | convW2a _ | convG2w _ | convW2g _ | hubUnsub | ctrClr =>
    exact .finish rfl

/-! No agent changes the configuration. -/

theorem engineStep_keepsConfig {p : Nat} : (engineStep p s).KeepsConfig s := by
  unfold engineStep
  cases s.ports[p]? with
  | none => exact .next rfl
  | some pt =>
    refine .ite ?_ (.next rfl)
    cases decode pt.latch with
    | ok i => exact exec_keepsConfig (s := { s with served := p })
    | error e => exact .raise rfl

/-- A register write is a change of a port's bank, of a deframer channel, or of nothing. -/
@[simp] theorem writeReg_cfg (s : State) (off : Nat) (v : Word) : (writeReg s off v).cfg = s.cfg := by
  unfold writeReg
  split_ifs <;> rfl

theorem hostAccess_keepsConfig {p : Nat} {a : Access} : (hostAccess p a s).KeepsConfig s := by
  cases a with
  | regRead off width => exact .ite (.next rfl) (.refused _)
  | regWrite off width v => exact .ite (.next (writeReg_cfg ..)) (.refused _)
  | bufRead off width => exact .ite (.reading fun _ => .next rfl) (.refused _)
  | bufWrite off width v => exact .ite (.next rfl) (.refused _)

theorem hostStep_keepsConfig {p : Nat} {a : Access} : (hostStep p a s).KeepsConfig s :=
  .ite hostAccess_keepsConfig (.refused _)

@[simp] theorem takeUpstream_cfg (s : State) : (takeUpstream s).cfg = s.cfg := by
  unfold takeUpstream
  split <;> rfl

@[simp] theorem takeDownstream_cfg (s : State) : (takeDownstream s).cfg = s.cfg := by
  unfold takeDownstream
  split <;> rfl

theorem programStep_keepsConfig : (programStep s).KeepsConfig s := by
  rcases programStep_cases s with h | ⟨rest, ⟨p, a, h⟩ | h | h⟩ <;> rw [h]
  · exact .next rfl
  · exact hostStep_keepsConfig (s := { s with program := rest })
  · exact .next (takeUpstream_cfg _)
  · exact .next (takeDownstream_cfg _)

theorem agentStep_keepsConfig {a : AgentStep} : (agentStep a s).KeepsConfig s := by
  cases a with
  | engine p => exact engineStep_keepsConfig
  | host p access => exact hostStep_keepsConfig
  | program => exact programStep_keepsConfig
  | upstream => exact .next (takeUpstream_cfg s)
  | downstream => exact .next (takeDownstream_cfg s)
  | reset => exact .next rfl

/-- A step is the first agent step of the agenda, if there is one, and no agent changes the configuration. -/
theorem step_keepsConfig : Result.KeepsConfig s (step s) := by
  cases hagenda : s.agenda with
  | nil =>
    rw [step_nil hagenda]
    exact .next rfl
  | cons a rest =>
    rw [step_cons hagenda]
    exact agentStep_keepsConfig (s := { s with agenda := rest })

end

/-- Settles O11: the configuration is kept command by command, agent by agent, and so by every step. -/
theorem noStepChangesTheConfiguration : Obligations.NoStepChangesTheConfiguration :=
  fun _ t h => step_keepsConfig t h

/-! The reset event (rule R360). -/

/-- What lies outside the block is no part of the reset values. -/
theorem State.AtReset.of_environment {t : State} (h : t.AtReset) (agenda : List AgentStep) (program : List ProgramStep)
    (upOut : List UpEntry) (downOut : List DownEntry) (hostReads : List (Nat × Word)) :
    State.AtReset { t with agenda, program, upOut, downOut, hostReads } := h

/-- The reset event leaves the block of the same configuration right after reset, whatever the state was. -/
theorem applyReset_atReset (s : State) : (applyReset s).AtReset :=
  (resetLeavesTheValuesOfTheTable s.cfg).1.of_environment ..

/-- Settles O10: the reset event always has a next state, the block's part of which is `State.resetOf` of the
configuration, with what the consumers were handed kept as it was. -/
theorem resetEventResetsTheWholeBlock : Obligations.ResetEventResetsTheWholeBlock := by
  intro s rest h
  exact ⟨applyReset { s with agenda := rest }, step_cons h, applyReset_atReset _, rfl, rfl, rfl⟩

end Sys2Proof.Machine
end

section
/-! PROOFS. The decoder and the encoder (30_encoding.md): the operand forms undo each other, `decode` looks at no bit that
the operand table does not name, and so the two functions agree on every command and on every canonical latch. -/

namespace Sys2Proof.Machine

/-! The operand forms (rules R101 to R103). -/

/-- The low `n` bits of an operand word: what a form that names `n` bits of it sees. -/
def lowBits (n : Nat) (x : Word) : Word := (x.setWidth n).setWidth 32

theorem setWidth_setWidth_eq_lowBits (n : Nat) (x : Word) : (x.setWidth n).setWidth 32 = lowBits n x := rfl

theorem lowBits_toNat {n : Nat} (h : n ≤ 32) (x : Word) : (lowBits n x).toNat = x.toNat % 2 ^ n := by
  rw [lowBits, BitVec.toNat_setWidth_of_le h, BitVec.toNat_setWidth]

/-- A word that fits a field is its own low bits. -/
theorem lowBits_of_fits {n : Nat} {x : Word} (h : x.toNat < 2 ^ n) : lowBits n x = x := by
  apply BitVec.eq_of_toNat_eq
  rw [lowBits, BitVec.toNat_setWidth, BitVec.toNat_setWidth, Nat.mod_eq_of_lt h, Nat.mod_eq_of_lt x.isLt]

theorem lowBits_congr {n : Nat} {x y : Word} (h : x.toNat % 2 ^ n = y.toNat % 2 ^ n) : lowBits n x = lowBits n y := by
  rw [lowBits, lowBits, show x.setWidth n = y.setWidth n from BitVec.eq_of_toNat_eq (by simpa using h)]

@[simp] theorem lowBits_zero (x : Word) : lowBits 0 x = 0 := by
  apply BitVec.eq_of_toNat_eq
  rw [lowBits_toNat (by decide), Nat.pow_zero, Nat.mod_one]
  rfl

@[simp] theorem lowBits_32 (x : Word) : lowBits 32 x = x := lowBits_of_fits x.isLt

/-- A field as wide as a word or narrower comes back from the word it was written to. -/
theorem setWidth_setWidth_word {n : Nat} (h : n ≤ 32) (x : BitVec n) : (x.setWidth 32).setWidth n = x := by
  apply BitVec.eq_of_toNat_eq
  rw [BitVec.toNat_setWidth, BitVec.toNat_setWidth_of_le h, Nat.mod_eq_of_lt x.isLt]

@[simp] theorem uuidLo_uuidOfWords (a0 a1 : Word) : uuidLo (uuidOfWords a0 a1) = a0 := u32le_le32 a0

@[simp] theorem uuidHi_uuidOfWords (a0 a1 : Word) : uuidHi (uuidOfWords a0 a1) = lowBits 16 a1 := by
  apply BitVec.eq_of_toNat_eq
  rw [uuidHi_toNat, uuidOfWords, toNat_extract_eq, toNat_extract_eq, lowBits_toNat (by decide)]
  omega

/-- A uuid comes back from the two words it is passed in (rule R102). -/
@[simp] theorem uuidOfWords_uuidLo_uuidHi (u : Uuid) : uuidOfWords (uuidLo u) (uuidHi u) = u := by
  have hlo : le32 (uuidLo u) = [u.b0, u.b1, u.b2, u.b3] := le32_u32le u.b0 u.b1 u.b2 u.b3
  have hhi : le16 ((uuidHi u).setWidth 16) = [u.b4, u.b5] := by
    rw [uuidHi, setWidth_setWidth_word (by decide)]
    exact le16_u16le u.b4 u.b5
  simp only [le32, List.cons.injEq, and_true] at hlo
  obtain ⟨hb0, hb1, hb2, hb3⟩ := hlo
  simp only [le16, List.cons.injEq, and_true, extractLsb'_setWidth_eq_ofNat _ (show 0 + 8 ≤ 16 by decide),
    extractLsb'_setWidth_eq_ofNat _ (show 8 + 8 ≤ 16 by decide)] at hhi
  obtain ⟨hb4, hb5⟩ := hhi
  have hcut (w : Word) (i : Nat) : w.extractLsb' i 8 = BitVec.ofNat 8 (w.toNat / 2 ^ i) :=
    BitVec.eq_of_toNat_eq (by rw [toNat_extract_eq, BitVec.toNat_ofNat])
  rw [uuidOfWords, hb0, hb1, hb2, hb3, hcut, hcut, hb4, hb5]

/-! Both directions of rules R100 to R104. -/

/-- Settles O1: each opcode selects the arm of `decode` it was written for, and each operand form is undone. -/
theorem decodeOfEncodeIsTheCommand : Obligations.DecodeOfEncodeIsTheCommand := by
  intro i
  cases i with
  | hubAttach u | hubDetach u | hubRouteout u _ _ | hubRoutein u _ _ =>
    simp [encode, decode, uuidOfWords_uuidLo_uuidHi u]
  | slipRx b _ | typeClass b => simp [encode, decode, setWidth_setWidth_word (show 8 ≤ 32 by decide) b]
  | mrkPack x y =>
    simp [encode, decode, setWidth_setWidth_word (show 12 ≤ 32 by decide) x,
      setWidth_setWidth_word (show 12 ≤ 32 by decide) y]
  | mrkUnpack v => simp [encode, decode, setWidth_setWidth_word (show 24 ≤ 32 by decide) v]
  | convW2a r | convW2g r => simp [encode, decode, setWidth_setWidth_word (show 16 ≤ 32 by decide) r]
  | nop | slipEnc _ _ _ _ | slipDec _ _ | slipRxclr _ | pktSer _ _ _ | pktParse _ _ _ _ | motPack _ _ | motUnpack _ _
  | convA2w _ | convG2w _ | hubRequest | hubSub | hubUnsub | ctrClr => simp [encode, decode]

/-- The operand widths of an opcode stand in its row of the operand table. -/
theorem mem_operandTable {op : Byte} {w : OperandWidths} (h : operandWidths op = some w) : (op, w) ∈ operandTable := by
  rw [operandWidths, Option.map_eq_some_iff] at h
  obtain ⟨row, hrow, rfl⟩ := h
  have hop : row.1 = op := by simpa using List.find?_some hrow
  rw [← hop]
  exact List.mem_of_find?_eq_some hrow

/-- A CMD word whose reserved bits are 0 is its opcode (rule R105). -/
theorem lop_eq_setWidth {x : Word} (h : x.extractLsb' 8 24 = 0) : x = (x.setWidth 8).setWidth 32 := by
  apply BitVec.eq_of_toNat_eq
  have hz : (x.extractLsb' 8 24).toNat = 0 := congrArg BitVec.toNat h
  have := x.isLt
  rw [toNat_extract_eq] at hz
  rw [BitVec.toNat_setWidth_of_le (by decide), BitVec.toNat_setWidth]
  omega

/-- A latch with an assigned opcode and no reserved bit decodes, to the command whose encoding is the latch with every
operand bit cleared that the form does not name (rule R101). -/
theorem decode_eq_ok_of_operandWidths {l : Latch} {w : OperandWidths} (hres : l.lop.extractLsb' 8 24 = 0)
    (hw : operandWidths (l.lop.setWidth 8) = some w) :
    ∃ i, decode l = .ok i ∧
      encode i = ⟨l.lop, lowBits w.w0 l.a0, lowBits w.w1 l.a1, lowBits w.w2 l.a2, lowBits w.w3 l.a3⟩ := by
  have hlop := lop_eq_setWidth hres
  have hrow := mem_operandTable hw
  simp only [operandTable, List.cons_append, List.nil_append, List.mem_cons, List.not_mem_nil, or_false,
    Prod.mk.injEq] at hrow
  rw [decode, if_neg (not_not.2 hres)]
  rcases hrow with h | h | h | h | h | h | h | h | h | h | h | h | h | h | h | h | h | h | h | h | h | h | h | h
  all_goals
    obtain ⟨hop, rfl⟩ := h
    rw [hop] at hlop ⊢
    refine ⟨_, rfl, ?_⟩
    simp [encode, hlop, setWidth_setWidth_eq_lowBits]

/-- What a canonical latch is: reserved bits 0, an assigned opcode, and each operand within its form's width. -/
theorem Latch.canonical_iff {l : Latch} :
    l.canonical = true ↔ l.lop.extractLsb' 8 24 = 0 ∧ ∃ w, operandWidths (l.lop.setWidth 8) = some w ∧
      l.a0.toNat < 2 ^ w.w0 ∧ l.a1.toNat < 2 ^ w.w1 ∧ l.a2.toNat < 2 ^ w.w2 ∧ l.a3.toNat < 2 ^ w.w3 := by
  rw [Latch.canonical, Bool.and_eq_true, beq_iff_eq]
  cases operandWidths (l.lop.setWidth 8) <;> simp [and_assoc]

/-- Settles O2: the operands of a canonical latch have no bit that its command's encoding clears. -/
theorem canonicalLatchIsItsEncoding : Obligations.CanonicalLatchIsItsEncoding := by
  intro l hl
  obtain ⟨hres, w, hw, h0, h1, h2, h3⟩ := Latch.canonical_iff.1 hl
  obtain ⟨i, hdec, henc⟩ := decode_eq_ok_of_operandWidths hres hw
  refine ⟨i, hdec, ?_⟩
  rw [henc, lowBits_of_fits h0, lowBits_of_fits h1, lowBits_of_fits h2, lowBits_of_fits h3]

/-- Settles O3: the two commands have the same encoding, because the operands agree on the bits it keeps, and `decode`
undoes `encode`. -/
theorem unnamedOperandBitsAreIgnored : Obligations.UnnamedOperandBitsAreIgnored := by
  intro l l' w hlop hw h0 h1 h2 h3
  by_cases hres : l.lop.extractLsb' 8 24 = 0
  · obtain ⟨i, hdec, henc⟩ := decode_eq_ok_of_operandWidths hres hw
    obtain ⟨i', hdec', henc'⟩ := decode_eq_ok_of_operandWidths (hlop ▸ hres) (hlop ▸ hw)
    have hsame : encode i = encode i' := by
      rw [henc, henc', hlop, lowBits_congr h0, lowBits_congr h1, lowBits_congr h2, lowBits_congr h3]
    have hi : (Except.ok i : Except DecodeError Instr) = .ok i' := by
      rw [← decodeOfEncodeIsTheCommand i, hsame, decodeOfEncodeIsTheCommand]
    rw [hdec, hdec', hi]
  · rw [decode, if_pos hres, decode, if_pos (hlop ▸ hres)]

/-- Settles O4: each word is evaluated. -/
theorem writtenOutWordsDecode : Obligations.WrittenOutWordsDecode := by
  unfold Obligations.WrittenOutWordsDecode
  refine ⟨?nop, ?hubSub, ?unassigned, ?reserved, ?slipEnc, ?slipRx, ?mrkPack, ?convW2g, ?hubRoutein⟩ <;> decide

end Sys2Proof.Machine
end

section
/-! PROOFS. slipEncode and slipDecode of 40_slip.md as functions on byte sequences: the decoder's equation for each way a
body can begin, what it makes of two bodies one after the other, where and why it fails, and that it undoes the
encoder. -/

namespace Sys2Proof.Machine

/-! The decoder, by how the body begins (rule R142). -/

section
variable (k : Nat) (s : List Byte)

@[simp] theorem slipDecodeFrom_nil : slipDecodeFrom k [] = .ok [] := by rw [slipDecodeFrom]

theorem slipDecodeFrom_escEnd :
    slipDecodeFrom k (slipEsc :: slipEscEnd :: s) = (slipDecodeFrom (k + 2) s).map (slipEnd :: ·) := by
  rw [slipDecodeFrom.eq_def]
  exact (if_pos rfl).trans (if_pos rfl)

theorem slipDecodeFrom_escEsc :
    slipDecodeFrom k (slipEsc :: slipEscEsc :: s) = (slipDecodeFrom (k + 2) s).map (slipEsc :: ·) := by
  rw [slipDecodeFrom.eq_def]
  exact (if_pos rfl).trans ((if_neg (by decide)).trans (if_pos rfl))

theorem slipDecodeFrom_plain {c : Byte} (h : c ≠ slipEsc) :
    slipDecodeFrom k (c :: s) = (slipDecodeFrom (k + 1) s).map (c :: ·) := by
  rw [slipDecodeFrom.eq_def]
  exact if_neg h

/-- The three ways the bytes after an ESC fail to make an escape, and the error each is reported as. -/
inductive BadEscape : SlipError → List Byte → Prop where
  | trailing : BadEscape .trailingEsc []
  | double (rest : List Byte) : BadEscape .doubleEsc (slipEsc :: rest)
  | invalid {c : Byte} (rest : List Byte) (hend : c ≠ slipEscEnd) (hescEsc : c ≠ slipEscEsc) (hesc : c ≠ slipEsc) :
      BadEscape .invalidEsc (c :: rest)

theorem slipDecodeFrom_badEscape {kind : SlipError} {tail : List Byte} (h : BadEscape kind tail) :
    slipDecodeFrom k (slipEsc :: tail) = .error (kind, k) := by
  rw [slipDecodeFrom.eq_def]
  refine (if_pos rfl).trans ?_
  cases h with
  | trailing => rfl
  | double rest => exact (if_neg (by decide)).trans ((if_neg (by decide)).trans (if_pos rfl))
  | invalid rest hend hescEsc hesc => exact (if_neg hend).trans ((if_neg hescEsc).trans (if_neg hesc))

/-- Every body is empty, or begins with an escape, with any other byte but ESC, or with an ESC that fails. -/
theorem slipBody_cases :
    s = [] ∨ (∃ rest, s = slipEsc :: slipEscEnd :: rest) ∨ (∃ rest, s = slipEsc :: slipEscEsc :: rest) ∨
      (∃ c rest, s = c :: rest ∧ c ≠ slipEsc) ∨ ∃ kind tail, s = slipEsc :: tail ∧ BadEscape kind tail := by
  match s with
  | [] => exact .inl rfl
  | c :: rest =>
    by_cases hc : c = slipEsc
    case neg => exact .inr (.inr (.inr (.inl ⟨c, rest, rfl, hc⟩)))
    subst hc
    match rest with
    | [] => exact .inr (.inr (.inr (.inr ⟨_, _, rfl, .trailing⟩)))
    | d :: rest =>
      by_cases hend : d = slipEscEnd
      · exact .inr (.inl ⟨rest, by rw [hend]⟩)
      by_cases hescEsc : d = slipEscEsc
      · exact .inr (.inr (.inl ⟨rest, by rw [hescEsc]⟩))
      by_cases hesc : d = slipEsc
      · exact .inr (.inr (.inr (.inr ⟨_, _, by rw [hesc], .double rest⟩)))
      · exact .inr (.inr (.inr (.inr ⟨_, _, rfl, .invalid rest hend hescEsc hesc⟩)))

end

/-! Bodies that decode, as a relation that does not speak of the index. -/

/-- The body `s` decodes to the data `out`. -/
inductive Unescapes : List Byte → List Byte → Prop where
  | nil : Unescapes [] []
  | escEnd {s out : List Byte} (h : Unescapes s out) : Unescapes (slipEsc :: slipEscEnd :: s) (slipEnd :: out)
  | escEsc {s out : List Byte} (h : Unescapes s out) : Unescapes (slipEsc :: slipEscEsc :: s) (slipEsc :: out)
  | plain {c : Byte} {s out : List Byte} (hc : c ≠ slipEsc) (h : Unescapes s out) : Unescapes (c :: s) (c :: out)

/-- A body that decodes, followed by another one: the decoder goes on with the second at its index. -/
theorem Unescapes.slipDecodeFrom_append {s out : List Byte} (h : Unescapes s out) (k : Nat) (tail : List Byte) :
    slipDecodeFrom k (s ++ tail) = (slipDecodeFrom (k + s.length) tail).map (out ++ ·) := by
  induction h generalizing k with
  | nil => cases hd : slipDecodeFrom k tail <;> simp [Except.map, hd]
  | @escEnd s _ _ ih =>
    rw [List.cons_append, List.cons_append, slipDecodeFrom_escEnd, ih, List.length_cons, List.length_cons,
      show k + 2 + s.length = k + (s.length + 1 + 1) by omega]
    cases slipDecodeFrom _ tail <;> rfl
  | @escEsc s _ _ ih =>
    rw [List.cons_append, List.cons_append, slipDecodeFrom_escEsc, ih, List.length_cons, List.length_cons,
      show k + 2 + s.length = k + (s.length + 1 + 1) by omega]
    cases slipDecodeFrom _ tail <;> rfl
  | @plain _ s _ hc _ ih =>
    rw [List.cons_append, slipDecodeFrom_plain _ _ hc, ih, List.length_cons,
      show k + 1 + s.length = k + (s.length + 1) by omega]
    cases slipDecodeFrom _ tail <;> rfl

/-- A body that decodes does so at every index. -/
theorem Unescapes.slipDecodeFrom_eq {s out : List Byte} (h : Unescapes s out) (k : Nat) :
    slipDecodeFrom k s = .ok out := by
  have happend := h.slipDecodeFrom_append k []
  rw [List.append_nil, slipDecodeFrom_nil] at happend
  simpa [Except.map] using happend

/-- Every body decodes, or a part of it decodes and the ESC after that part fails. -/
theorem unescapes_or_badEscape (s : List Byte) :
    (∃ out, Unescapes s out) ∨
      ∃ pre tail kind out, s = pre ++ slipEsc :: tail ∧ Unescapes pre out ∧ BadEscape kind tail := by
  induction hn : s.length using Nat.strong_induction_on generalizing s with
  | _ n ih =>
    rcases slipBody_cases s with rfl | ⟨rest, rfl⟩ | ⟨rest, rfl⟩ | ⟨c, rest, rfl, hc⟩ | ⟨kind, tail, rfl, hbad⟩
    · exact .inl ⟨_, .nil⟩
    · rcases ih _ (by simp [← hn]) rest rfl with ⟨out, h⟩ | ⟨pre, tail, kind, out, rfl, h, hbad⟩
      · exact .inl ⟨_, h.escEnd⟩
      · exact .inr ⟨_, tail, kind, _, rfl, h.escEnd, hbad⟩
    · rcases ih _ (by simp [← hn]) rest rfl with ⟨out, h⟩ | ⟨pre, tail, kind, out, rfl, h, hbad⟩
      · exact .inl ⟨_, h.escEsc⟩
      · exact .inr ⟨_, tail, kind, _, rfl, h.escEsc, hbad⟩
    · rcases ih _ (by simp [← hn]) rest rfl with ⟨out, h⟩ | ⟨pre, tail, kind, out, rfl, h, hbad⟩
      · exact .inl ⟨_, h.plain hc⟩
      · exact .inr ⟨_, tail, kind, _, rfl, h.plain hc, hbad⟩
    · exact .inr ⟨[], tail, kind, [], rfl, .nil, hbad⟩

/-- After a part that decodes, an ESC that fails is what is reported, at its index and whatever follows. -/
theorem slipDecode_badEscape {pre tail out : List Byte} {kind : SlipError} (h : Unescapes pre out)
    (hbad : BadEscape kind tail) : slipDecode (pre ++ slipEsc :: tail) = .error (kind, pre.length) := by
  rw [slipDecode, h.slipDecodeFrom_append, slipDecodeFrom_badEscape _ hbad, Nat.zero_add]
  rfl

theorem slipDecode_eq_ok_iff {s out : List Byte} : slipDecode s = .ok out ↔ Unescapes s out := by
  constructor
  · intro h
    rcases unescapes_or_badEscape s with ⟨out', h'⟩ | ⟨pre, tail, kind, out', rfl, h', hbad⟩
    · rw [slipDecode, h'.slipDecodeFrom_eq] at h
      cases h
      exact h'
    · rw [slipDecode_badEscape h' hbad] at h
      cases h
  · exact fun h => h.slipDecodeFrom_eq 0

/-- Why and where a body fails: at an ESC after a part that decodes. -/
theorem slipDecode_eq_error {s : List Byte} {kind : SlipError} {k : Nat} (h : slipDecode s = .error (kind, k)) :
    ∃ pre tail out, s = pre ++ slipEsc :: tail ∧ k = pre.length ∧ Unescapes pre out ∧ BadEscape kind tail := by
  rcases unescapes_or_badEscape s with ⟨out', h'⟩ | ⟨pre, tail, kind', out', rfl, h', hbad⟩
  · rw [slipDecode, h'.slipDecodeFrom_eq] at h
    cases h
  · rw [slipDecode_badEscape h' hbad] at h
    cases h
    exact ⟨pre, tail, out', rfl, rfl, h', hbad⟩

/-- Decoding never makes a body longer (rule R143: it fits in place). -/
theorem Unescapes.length_le {s out : List Byte} (h : Unescapes s out) : out.length ≤ s.length := by
  induction h with
  | nil => exact Nat.le_refl _
  | escEnd _ ih | escEsc _ ih | plain _ _ ih => simp only [List.length_cons]; omega

/-- Settles O29: the output follows the body byte by byte, and a body that fails is one that decodes, an ESC, and a tail
that makes no escape. -/
theorem slipDecodeReportsTheFirstFailure : Obligations.SlipDecodeReportsTheFirstFailure := by
  intro s
  refine ⟨fun out hout => ?ok, fun kind k herr => ?error⟩
  case ok =>
    have h := slipDecode_eq_ok_iff.1 hout
    refine ⟨h.length_le, slipDecode_eq_ok_iff.2 h.escEnd, slipDecode_eq_ok_iff.2 h.escEsc,
      fun c hc => slipDecode_eq_ok_iff.2 (h.plain hc), slipDecode_badEscape h .trailing, fun rest =>
      ⟨slipDecode_badEscape h (.double rest), fun c hesc hend hescEsc =>
        slipDecode_badEscape h (.invalid rest hend hescEsc hesc)⟩⟩
  case error =>
    obtain ⟨pre, tail, out, rfl, rfl, h, hbad⟩ := slipDecode_eq_error herr
    refine ⟨by simp [slipEsc], ⟨out, ?_⟩, ?_⟩
    · rw [List.take_left]
      exact slipDecode_eq_ok_iff.2 h
    · cases hbad with
      | trailing => simp
      | double rest => simp [slipEsc]
      | invalid rest hend hescEsc hesc => exact ⟨_, by simp, hesc, hend, hescEsc⟩

/-! The encoder (rule R146). -/

theorem slipEncode_cons (c : Byte) (d : List Byte) : slipEncode (c :: d) = slipEscape c ++ slipEncode d := by
  rw [slipEncode, slipEncode, List.flatMap_cons, List.append_assoc]

theorem slipEscape_end : slipEscape slipEnd = [slipEsc, slipEscEnd] := if_pos rfl

theorem slipEscape_esc : slipEscape slipEsc = [slipEsc, slipEscEsc] := rfl

theorem slipEscape_plain {c : Byte} (hend : c ≠ slipEnd) (hesc : c ≠ slipEsc) : slipEscape c = [c] :=
  (if_neg hend).trans (if_neg hesc)

/-- The escaped form of a byte, put before a body, decodes to that byte and the body's data. -/
theorem Unescapes.slipEscape_append (c : Byte) {s out : List Byte} (h : Unescapes s out) :
    Unescapes (slipEscape c ++ s) (c :: out) := by
  by_cases hend : c = slipEnd
  · subst hend
    exact h.escEnd
  by_cases hesc : c = slipEsc
  · subst hesc
    exact h.escEsc
  · rw [slipEscape_plain hend hesc]
    exact h.plain hesc

/-- Decoding undoes escaping (rule R148). -/
theorem unescapes_flatMap_slipEscape (d : List Byte) : Unescapes (d.flatMap slipEscape) d := by
  induction d with
  | nil => exact .nil
  | cons c d ih => exact ih.slipEscape_append c

theorem slipEnd_notMem_slipEscape (c : Byte) : slipEnd ∉ slipEscape c := by
  by_cases hend : c = slipEnd
  · subst hend
    decide
  by_cases hesc : c = slipEsc
  · subst hesc
    decide
  · rw [slipEscape_plain hend hesc, List.mem_singleton]
    exact fun h => hend h.symm

theorem count_cons_eq (b c : Byte) (d : List Byte) : (c :: d).count b = [c].count b + d.count b :=
  List.count_append (l₁ := [c])

/-- An escaped byte is one byte longer for END and ESC. -/
theorem length_slipEscape (c : Byte) : (slipEscape c).length = 1 + [c].count slipEnd + [c].count slipEsc := by
  by_cases hend : c = slipEnd
  · subst hend
    decide
  by_cases hesc : c = slipEsc
  · subst hesc
    decide
  · rw [slipEscape_plain hend hesc, List.count_singleton, List.count_singleton]
    simp [hend, hesc]

theorem length_slipEncode (d : List Byte) :
    (slipEncode d).length = d.length + d.count slipEnd + d.count slipEsc + 1 := by
  induction d with
  | nil => rfl
  | cons c d ih =>
    rw [slipEncode_cons, List.length_append, length_slipEscape, ih, count_cons_eq slipEnd c d, count_cons_eq slipEsc c d,
      List.length_cons]
    omega

/-- A byte is not both END and ESC, so the escapes at most double the data. -/
theorem count_slipEnd_add_count_slipEsc_le (d : List Byte) : d.count slipEnd + d.count slipEsc ≤ d.length := by
  induction d with
  | nil => exact Nat.le_refl _
  | cons c d ih =>
    have hone : [c].count slipEnd + [c].count slipEsc ≤ 1 := by
      have hlen : (slipEscape c).length ≤ 2 := by unfold slipEscape; split_ifs <;> simp
      rw [length_slipEscape] at hlen
      omega
    rw [count_cons_eq slipEnd c d, count_cons_eq slipEsc c d, List.length_cons]
    omega

/-- Settles O28: the body is the data escaped byte by byte, which has no END, and which the decoder undoes. -/
theorem slipRoundTripAndLength : Obligations.SlipRoundTripAndLength := by
  intro d
  have hlen := length_slipEncode d
  have hcount := count_slipEnd_add_count_slipEsc_le d
  refine ⟨⟨d.flatMap slipEscape, rfl, ?noEnd, slipDecode_eq_ok_iff.2 (unescapes_flatMap_slipEscape d)⟩, hlen,
    by omega, by omega, rfl, slipEncode_cons slipEnd d, slipEncode_cons slipEsc d, fun c hend hesc => ?plain⟩
  case noEnd =>
    rw [List.mem_flatMap]
    rintro ⟨c, -, hmem⟩
    exact slipEnd_notMem_slipEscape c hmem
  case plain => rw [slipEncode_cons, slipEscape_plain hend hesc, List.singleton_append]

end Sys2Proof.Machine
end

section
/-! PROOFS. The lengths of 41_packet.md: how long a payload and a host body are, kind by kind, and the word-count of a
packet. -/

namespace Sys2Proof.Machine

theorem hostSize_of_described {k : Kind} (h : k.described = true) (len : Nat) :
    hostSize k len = hostSize k 0 := by
  cases k with
  | obj | mrk | acc | ver => rfl
  | fix _ | var | vend => cases h

theorem payloadLen_of_described {k : Kind} (h : k.described = true) (len : Nat) :
    payloadLen k len = payloadLen k 0 := by
  cases k with
  | obj | mrk | acc | ver => rfl
  | fix _ | var | vend => cases h

/-! Payloads (rules R187 and R191 to R196). -/

/-- The payload of a described kind has its kind's length, whatever the record. -/
theorem length_packPayload_of_described {k : Kind} (h : k.described = true) (r : List Byte) :
    (packPayload k r).length = payloadLen k 0 := by
  cases k with
  | obj =>
    have hmots := length_flatMap_pieces (List.range 32) (fun i => motPack (motOfRecord r (12 + 56 * i))) 16
      fun _ => length_motPack _
    simp only [packPayload, List.length_append, hmots, length_le32, List.length_range]
    rfl
  | mrk =>
    exact (length_flatMap_pieces (List.range 32) _ 3 fun _ => length_mkPack _ _).trans (by rw [List.length_range]; rfl)
  | acc =>
    have hsamples := length_flatMap_pieces (List.range 6) (fun i => le16 ((wordAt r (12 + 4 * i)).setWidth 16)) 2
      fun _ => length_le16 _
    simp only [packPayload, List.length_append, hsamples, length_le32, List.length_range]
    rfl
  | ver =>
    exact (length_flatMap_pieces (List.range 6) _ 2 fun _ => length_le16 _).trans (by rw [List.length_range]; rfl)
  | fix _ | var | vend => cases h

/-- A vendor payload is its two bytes, the data that the record has up to LEN, and the padding that LEN leaves. -/
theorem length_packPayload_vend (r : List Byte) :
    (packPayload .vend r).length = 2 + min (wordAt r 12).toNat (r.length - 16) + (98 - (wordAt r 12).toNat) := by
  simp only [packPayload, List.length_append, List.length_take, List.length_drop, List.length_replicate,
    List.length_cons, List.length_nil]

/-- The payload of an opaque kind is the record without its first three words. -/
theorem packPayload_of_opaque {k : Kind} (h : k.described = false) (hv : k ≠ .vend) (r : List Byte) :
    packPayload k r = r.drop 12 := by
  cases k with
  | fix _ | var => rfl
  | vend => exact absurd rfl hv
  | obj | mrk | acc | ver => cases h

/-! Host bodies (rules R187 and R191 to R196). -/

/-- The host record of a described kind has its kind's size, whatever the payload. -/
theorem length_unpackPayload_of_described {k : Kind} (h : k.described = true) (p : List Byte) :
    8 + (unpackPayload k p).length = hostSize k 0 := by
  cases k with
  | obj =>
    have hmots := length_flatMap_pieces (List.range 32) (fun i => motRecord (motUnpack p (4 + 16 * i))) 56
      fun _ => length_motRecord _
    simp only [unpackPayload, List.length_append, hmots, length_le32, List.length_range]
    rfl
  | mrk =>
    have hpairs := length_flatMap_pieces (List.range 32) (fun i =>
      let q := mkUnpack (byteAt p (3 * i)) (byteAt p (3 * i + 1)) (byteAt p (3 * i + 2))
      le32 (q.1.setWidth 32) ++ le32 (q.2.setWidth 32)) 8 fun _ => rfl
    rw [unpackPayload, hpairs, List.length_range]
    rfl
  | acc =>
    have hsamples := length_flatMap_pieces (List.range 6) (fun i => le32 ((halfAt p (4 + 2 * i)).signExtend 32)) 4
      fun _ => length_le32 _
    simp only [unpackPayload, List.length_append, hsamples, length_le32, List.length_range]
    rfl
  | ver =>
    rw [unpackPayload, length_flatMap_pieces (List.range 6) _ 4 fun _ => length_le32 _, List.length_range]
    rfl
  | fix _ | var | vend => cases h

/-- The host record of a vendor payload with a length in range has the vendor size. -/
theorem length_unpackPayload_vend {p : List Byte} (hp : p.length = 100) (hn : (byteAt p 1).toNat ≤ 98) :
    8 + (unpackPayload .vend p).length = hostSize .vend 0 := by
  simp only [unpackPayload, List.length_append, length_le32, List.length_take, List.length_drop, List.length_replicate,
    hp, hostSize]
  omega

/-- The host body of an opaque kind is the payload after its length. -/
theorem unpackPayload_of_opaque {k : Kind} (h : k.described = false) (hv : k ≠ .vend) (p : List Byte) :
    unpackPayload k p = le32 (wordOf p.length) ++ p := by
  cases k with
  | fix _ | var => rfl
  | vend => exact absurd rfl hv
  | obj | mrk | acc | ver => cases h

theorem length_unpackPayload_of_opaque {k : Kind} (h : k.described = false) (hv : k ≠ .vend) (p : List Byte) :
    8 + (unpackPayload k p).length = hostSize k p.length := by
  rw [unpackPayload_of_opaque h hv, List.length_append, length_le32]
  cases k with
  | fix _ | var => exact (Nat.add_assoc 8 4 p.length).symm
  | vend => exact absurd rfl hv
  | obj | mrk | acc | ver => cases h

/-! The word-count (rules R180 and R182). -/

/-- Twice the word-count of an even payload is its length with the four header bytes. -/
theorem halfAt_packetHeader {n : Nat} (heven : n % 2 = 0) (hle : n ≤ 131066) (t id : Byte) :
    2 * (halfAt (packetHeader n t id) 0).toNat = n + 4 := by
  have hword : halfAt (packetHeader n t id) 0 = BitVec.ofNat 16 ((n + 4) / 2) := u16le_le16 _
  rw [hword, BitVec.toNat_ofNat]
  omega

/-- Settles O47: only the lengths of FIX and VAR are not numbers of R187's table, and those are the record's less its
three words. -/
theorem payloadLengthsAndWordCount : Obligations.PayloadLengthsAndWordCount := by
  intro c b k n r t id _ _ hr heven hle hfix hvend
  have hlen : (packPayload k r).length = payloadLen k n := by
    cases k with
    | obj | mrk | acc | ver => exact length_packPayload_of_described rfl r
    | vend =>
      have hn := hvend rfl
      have hsize : r.length = 114 := hr
      rw [length_packPayload_vend, hsize, show payloadLen .vend n = 100 from rfl]
      omega
    | fix m =>
      have hsize : r.length = 12 + n := hr
      rw [packPayload_of_opaque (k := .fix m) rfl nofun, List.length_drop, hsize, hfix m rfl]
      exact Nat.add_sub_cancel_left 12 m
    | var =>
      have hsize : r.length = 12 + n := hr
      rw [packPayload_of_opaque (k := .var) rfl nofun, List.length_drop, hsize]
      exact Nat.add_sub_cancel_left 12 n
  have hbounds : payloadLen k n % 2 = 0 ∧ payloadLen k n ≤ 131066 := by
    cases k with
    | obj | mrk | acc | ver | vend => simp [payloadLen]
    | fix m => exact hfix m rfl ▸ ⟨heven, hle⟩
    | var => exact ⟨heven, hle⟩
  exact ⟨hlen, hbounds.1, hbounds.2, halfAt_packetHeader hbounds.1 hbounds.2 t id⟩

end Sys2Proof.Machine
end

section
/-! PROOFS. What a command can do, said once: its result is a completion after one of a few changes of the block's state,
a hold that changes nothing, or the model fault at an Unknown cell. One rule for each way a command is put together, and
by these rules one lemma for each command. -/

namespace Sys2Proof.Machine

/-- No deframer channel holds more than its area. -/
def State.RxGood (s : State) : Prop := ∀ c ∈ s.rx, c.Good

/-- What a command has done to BUF when it completes with a code: nothing; a store, only with OK and within BUF; or a
forget. -/
inductive BufChange (s : State) : StatusCode → Memory → Prop where
  | keep {code : StatusCode} : BufChange s code s.buf
  | store {a : Nat} {bs : List Byte} (h : s.RxGood → a + bs.length ≤ s.cfg.bufBytes) :
      BufChange s .ok (s.buf.write a bs)
  | forget {code : StatusCode} (a n : Nat) : BufChange s code (s.buf.forget a n)

/-- What a command has done to the deframer channels: SLIP.RX changes one and keeps it good, SLIP.RXCLR clears one and
ends with OK, and no other command changes any. -/
inductive RxChange (s : State) (i : Instr) : StatusCode → List RxChannel → Prop where
  | keep {code : StatusCode} : RxChange s i code s.rx
  | receive {code : StatusCode} {byte : Byte} {ch : Word} {f : RxChannel → RxChannel} (hi : i = .slipRx byte ch)
      (h : ∀ c, s.rx[ch.toNat]? = some c → c.Good → (f c).Good) : RxChange s i code (s.rx.modify ch.toNat f)
  | clear {ch : Word} (hi : i = .slipRxclr ch) : RxChange s i .ok (s.rx.modify ch.toNat clearRx)

/-- What a hub command that is neither held nor without effect has done to the hub. -/
inductive HubChange (s : State) : Instr → State → Prop where
  | attach {u : Uuid} (hnew : u ∉ s.roster) (hcap : s.roster.length ≠ s.cfg.rosterCap)
      (hroom : s.subscribed = true → s.upQ.length ≠ s.cfg.upqDepth) :
      HubChange s (.hubAttach u) ({ s with roster := s.roster ++ [u] } : State).notify
  | detach {u : Uuid} (hroom : s.subscribed = true → s.upQ.length ≠ s.cfg.upqDepth) :
      HubChange s (.hubDetach u) ({ s with roster := s.roster.filter (· ≠ u) } : State).notify
  | routeout {u : Uuid} {off len : Word} (bytes : List Byte) (hroom : s.downQ.length ≠ s.cfg.downqDepth) :
      HubChange s (.hubRouteout u off len) (s.pushDown ⟨u, bytes⟩)
  | routein {u : Uuid} {off len : Word} (bytes : List Byte) (hroom : s.upQ.length ≠ s.cfg.upqDepth) :
      HubChange s (.hubRoutein u off len) (s.pushUp (.devicePacket u bytes))
  | request (hroom : s.upQ.length ≠ s.cfg.upqDepth) : HubChange s .hubRequest s.pushSnapshot
  | sub (hroom : s.upQ.length ≠ s.cfg.upqDepth) :
      HubChange s .hubSub ({ s with subscribed := true } : State).pushSnapshot
  | unsub : HubChange s .hubUnsub { s with subscribed := false }

/-- What a command has changed when it completes with a code, its own bank apart: a codec command channels, cells and
counters; a hub command that ends with OK the hub. -/
inductive Change (s : State) (i : Instr) : StatusCode → State → Prop where
  | codec {code : StatusCode} {rx : List RxChannel} {buf : Memory} {counters : Counters}
      (hrx : RxChange s i code rx) (hbuf : BufChange s code buf) :
      Change s i code { s with rx := rx, buf := buf, counters := counters }
  | hub {s' : State} (h : HubChange s i s') : Change s i .ok s'

/-- The command waits for room in a queue (43_hub.md rule R272). -/
def Held (s : State) (i : Instr) : Prop :=
  (s.upQ.length = s.cfg.upqDepth ∧
    ((∃ u, i = .hubAttach u ∨ i = .hubDetach u) ∨ (∃ u off len, i = .hubRoutein u off len) ∨
      i = .hubRequest ∨ i = .hubSub)) ∨
  (s.downQ.length = s.cfg.downqDepth ∧ ∃ u off len, i = .hubRouteout u off len)

/-- Everything a command can answer. -/
inductive Answers (s : State) (i : Instr) : Result → Prop where
  | completes {s' : State} {code : StatusCode} {r0 r1 : Word} (h : Change s i code s') (hr1 : code ≠ .ok → r1 = 0) :
      Answers s i (.next (s'.complete code r0 r1))
  | held (h : Held s i) : Answers s i (.next s)
  | stops {x : Nat} (hunknown : s.buf.lookup x = none) (hbound : s.RxGood → x < s.cfg.bufBytes) :
      Answers s i (.fault (.unknownRead x))

/-! One rule for each way a command is put together. -/

namespace Answers

variable {s s' : State} {i : Instr} {r r' : Result}

theorem finish {r0 r1 : Word} (h : Change s i .ok s') : Answers s i (s'.finish r0 r1) :=
  .completes h fun hne => absurd rfl hne

theorem raise {code : StatusCode} {r0 : Word} (h : Change s i code s') : Answers s i (s'.raise code r0) :=
  .completes h fun _ => rfl

theorem ite {c : Prop} [Decidable c] (h : c → Answers s i r) (h' : ¬ c → Answers s i r') :
    Answers s i (if c then r else r') := by
  split
  case isTrue hc => exact h hc
  case isFalse hc => exact h' hc

theorem reading {a n : Nat} {k : List Byte → Result} (hn : s.RxGood → a + n ≤ s.cfg.bufBytes)
    (h : ∀ bs, bs.length = n → Answers s i (k bs)) : Answers s i (s.reading a n k) := by
  rcases s.reading_cases a n k with ⟨bs, hread, heq⟩ | ⟨x, hread, heq⟩
  · rw [heq]
    exact h bs (Memory.holds_of_read hread).1
  · rw [heq]
    obtain ⟨-, hlt, hunknown, -⟩ := Memory.read_error _ _ _ _ hread
    exact .stops hunknown fun hgood => Nat.lt_of_lt_of_le hlt (hn hgood)

/-- A completion that changes nothing but the bank of the port served. -/
theorem raiseOnly {code : StatusCode} {r0 : Word} : Answers s i (s.raise code r0) := raise (.codec .keep .keep)

theorem finishOnly {r0 r1 : Word} : Answers s i (s.finish r0 r1) := finish (.codec .keep .keep)

theorem withRange {k a n : Nat} (h : a + n ≤ s.cfg.bufBytes → Answers s i r) :
    Answers s i (withRange s k a n r) := by
  rw [withRange_eq]
  exact ite h fun _ => raiseOnly

theorem withRanges {ka a n kb b m : Nat}
    (h : a + n ≤ s.cfg.bufBytes → b + m ≤ s.cfg.bufBytes → Answers s i r) :
    Answers s i (withRanges s ka a n kb b m r) :=
  withRange fun ha => withRange fun hb => ite (fun _ => raiseOnly) fun _ => h ha hb

end Answers

section
variable {s : State}

/-! 40_slip.md. -/

theorem execSlipEnc_answers (src len dst cap : Word) :
    Answers s (.slipEnc src len dst cap) (execSlipEnc src len dst cap s) := by
  refine .withRanges fun hsrc hdst => .reading (fun _ => hsrc) fun data _ => .ite (fun _ => ?_) fun hfit => ?_
  · exact .raise (.codec .keep (.forget ..))
  · exact .finish (.codec .keep (.store fun _ => by omega))

theorem execSlipDec_answers (off len : Word) : Answers s (.slipDec off len) (execSlipDec off len s) := by
  refine .withRange fun hoff => .reading (fun _ => hoff) fun body hbody => ?_
  cases hdec : slipDecode body with
  | ok out =>
    have hout := (slipDecode_eq_ok_iff.1 hdec).length_le
    exact .finish (.codec .keep (.store fun _ => by omega))
  | error e => exact .raise (.codec .keep (.forget ..))

/-- A channel with RXLEN 0 is good. -/
theorem RxChannel.good_of_len_eq_zero {c : RxChannel} (h : c.len = 0) : c.Good := by
  rw [RxChannel.Good, h]
  exact Nat.zero_le _

section
variable {ch : Word} {c : RxChannel} (hc : s.rx[ch.toNat]? = some c)
  (harea : c.base.toNat + c.cap.toNat ≤ s.cfg.bufBytes)
include hc harea

theorem rxEnd_answers (byte : Byte) : Answers s (.slipRx byte ch) (rxEnd ch.toNat c s) := by
  have hbody (hgood : s.RxGood) : c.base.toNat + c.len.toNat ≤ s.cfg.bufBytes := by
    have : c.len.toNat ≤ c.cap.toNat := hgood c (List.mem_of_getElem? hc)
    omega
  refine .ite (fun _ => ?dropping) fun _ => .ite (fun _ => .finishOnly) fun _ => .reading hbody fun body hlen => ?body
  case dropping =>
    exact .finish (.codec (.receive rfl fun _ _ _ => RxChannel.good_of_len_eq_zero rfl) .keep)
  case body =>
    cases hdec : slipDecode body with
    | ok out =>
      have hout := (slipDecode_eq_ok_iff.1 hdec).length_le
      refine .finish (.codec (.receive rfl fun _ _ _ => RxChannel.good_of_len_eq_zero rfl) (.store fun hgood => ?_))
      have := hbody hgood
      omega
    | error e =>
      exact .raise (.codec (.receive rfl fun _ _ _ => RxChannel.good_of_len_eq_zero rfl) (.forget ..))

theorem rxStore_answers (byte : Byte) (hroom : c.len ≠ c.cap) :
    Answers s (.slipRx byte ch) (rxStore ch.toNat c byte s) := by
  have hlt (hgood : c.Good) : c.len.toNat < c.cap.toNat :=
    Nat.lt_of_le_of_ne hgood fun h => hroom (BitVec.eq_of_toNat_eq h)
  refine .finish (.codec (.receive rfl fun c' hc' hgood => ?good) (.store fun hgood => ?bound))
  case good =>
    obtain rfl : c = c' := Option.some.inj (hc.symm.trans hc')
    have := hlt hgood
    have := c.cap.isLt
    show (c.len + 1).toNat ≤ c.cap.toNat
    rw [BitVec.toNat_add, show (1 : Word).toNat = 1 from rfl]
    omega
  case bound =>
    have := hlt (hgood c (List.mem_of_getElem? hc))
    simp only [List.length_singleton]
    omega

end

theorem execSlipRx_answers (byte : Byte) (ch : Word) : Answers s (.slipRx byte ch) (execSlipRx byte ch s) := by
  unfold execSlipRx
  cases hc : s.rx[ch.toNat]? with
  | none => exact .raiseOnly
  | some c =>
    refine .ite (fun hrange => ?area) fun _ => .raiseOnly
    have harea : c.base.toNat + c.cap.toNat ≤ s.cfg.bufBytes := of_decide_eq_true hrange
    refine .ite (fun _ => rxEnd_answers hc harea byte) fun _ => .ite (fun _ => .finishOnly) fun _ =>
      .ite (fun _ => ?overflow) fun hroom => rxStore_answers hc harea byte hroom
    exact .raise (.codec (.receive rfl fun _ _ hgood => hgood) .keep)

theorem execSlipRxclr_answers (ch : Word) : Answers s (.slipRxclr ch) (execSlipRxclr ch s) := by
  unfold execSlipRxclr
  cases s.rx[ch.toNat]? with
  | none => exact .raiseOnly
  | some c => exact .finish (.codec (.clear rfl) .keep)

/-! 41_packet.md. -/

theorem execTypeClass_answers (b : Byte) : Answers s (.typeClass b) (execTypeClass b s) := by
  unfold execTypeClass
  cases classify s.cfg b with
  | invalid => exact .raiseOnly
  | catalog _ | endMark | vendorStart | vendor _ | vendorEnd => exact .finishOnly

section
variable {i : Instr} {record dst cap : Nat} {t id : Byte} {k : Kind}

/-- A packet that is no longer than the capacity stays in the output range. -/
theorem serWrite_answers {plen readLen : Nat} (hrec : record + readLen ≤ s.cfg.bufBytes)
    (hdst : dst + cap ≤ s.cfg.bufBytes) (hlen : ∀ r, r.length = readLen → (packPayload k r).length ≤ plen) :
    Answers s i (serWrite record dst cap t id k plen readLen s) := by
  refine .ite (fun _ => .raiseOnly) fun hcap => .reading (fun _ => hrec) fun r hr =>
    .finish (.codec .keep (.store fun _ => ?_))
  have := hlen r hr
  rw [List.length_append, length_packetHeader]
  omega

theorem serChecked_answers {len : Nat} (hrec : record + hostSize k len ≤ s.cfg.bufBytes)
    (hdst : dst + cap ≤ s.cfg.bufBytes) : Answers s i (serChecked record dst cap t id k len s) := by
  cases k with
  | vend =>
    have hsize : record + 114 ≤ s.cfg.bufBytes := hrec
    refine .reading (fun _ => by omega) fun w _ => .ite (fun _ => .raiseOnly) fun hn =>
      serWrite_answers (by omega) hdst fun r hr => ?_
    rw [length_packPayload_vend, hr]
    omega
  | fix n =>
    have hsize : record + (12 + len) ≤ s.cfg.bufBytes := hrec
    refine .ite (fun _ => .raiseOnly) fun hlen => serWrite_answers hsize hdst fun r hr => ?_
    rw [packPayload_of_opaque (k := .fix n) rfl nofun, List.length_drop, hr, hostSize]
    omega
  | var =>
    refine .ite (fun _ => .raiseOnly) fun _ => serWrite_answers hrec hdst fun r hr => ?_
    rw [packPayload_of_opaque (k := .var) rfl nofun, List.length_drop, hr, hostSize]
    omega
  | obj | mrk | acc | ver =>
    exact serWrite_answers hrec hdst fun r _ => Nat.le_of_eq (length_packPayload_of_described rfl r)

theorem serSized_answers {len : Nat} : Answers s i (serSized record dst cap t id k len s) :=
  .withRanges serChecked_answers

theorem serKind_answers : Answers s i (serKind record dst cap t id k s) := by
  cases k with
  | fix _ | var => exact .withRange fun hrec => .reading (fun _ => by omega) fun _ _ => serSized_answers
  | obj | mrk | acc | ver | vend => exact serSized_answers

end

theorem execPktSer_answers (record dst cap : Word) :
    Answers s (.pktSer record dst cap) (execPktSer record dst cap s) := by
  refine .withRange fun hrec => .reading (fun _ => hrec) fun h _ => ?_
  dsimp only
  cases classify s.cfg ((wordAt h 0).setWidth 8) with
  | invalid | endMark | vendorStart | vendorEnd => exact .raiseOnly
  | catalog _ | vendor _ => exact serKind_answers

section
variable {i : Instr} {src len record cap : Nat} {t id : Byte} {k : Kind}

theorem parseError_answers {code : StatusCode} {r0 : Word} : Answers s i (parseError code r0 s) :=
  .raise (.codec .keep .keep)

/-- A record that is no longer than the capacity stays in the record range. -/
theorem parseWrite_answers {p : List Byte} (hrec : record + cap ≤ s.cfg.bufBytes)
    (hlen : 8 + (unpackPayload k p).length = hostSize k p.length) :
    Answers s i (parseWrite record cap t id k p s) := by
  refine .ite (fun _ => .raiseOnly) fun hcap => .finish (.codec .keep (.store fun _ => ?_))
  simp only [List.length_append, length_le32]
  omega

theorem parseChecked_answers {p : List Byte} (hrec : record + cap ≤ s.cfg.bufBytes)
    (hp : k = .vend → p.length = 100) : Answers s i (parseChecked record cap t id k p s) := by
  cases k with
  | vend =>
    exact .ite (fun _ => parseError_answers) fun hn =>
      parseWrite_answers hrec (length_unpackPayload_vend (hp rfl) (Nat.not_lt.1 hn))
  | fix _ | var =>
    unfold parseChecked
    cases Config.opaqueValidate t p with
    | accepted => exact parseWrite_answers hrec (length_unpackPayload_of_opaque rfl (by simp) p)
    | unrecognizedPort | unrecognizedStreamUpdateAction _ | invalidBitPattern => exact parseError_answers
  | obj | mrk | acc | ver =>
    exact parseWrite_answers hrec ((length_unpackPayload_of_described rfl p).trans (hostSize_of_described rfl _).symm)

theorem parseSized_answers {plen : Nat} (hsrc : src + len ≤ s.cfg.bufBytes) (hrec : record + cap ≤ s.cfg.bufBytes)
    (hp : k = .vend → plen = 100) : Answers s i (parseSized src len record cap t k plen s) :=
  .ite (fun _ => parseError_answers) fun _ => .reading (fun _ => by omega) fun _ _ =>
    .reading (fun _ => by omega) fun _ hlen => parseChecked_answers hrec fun hv => hlen.trans (hp hv)

theorem parseKind_answers (hsrc : src + len ≤ s.cfg.bufBytes) (hrec : record + cap ≤ s.cfg.bufBytes)
    (hlen : 3 ≤ len) : Answers s i (parseKind src len record cap t k s) := by
  cases k with
  | var =>
    exact .reading (fun _ => by omega) fun _ _ => .ite (fun _ => parseError_answers) fun _ =>
      parseSized_answers hsrc hrec nofun
  | obj | mrk | acc | ver | vend | fix _ => exact parseSized_answers hsrc hrec fun h => by cases h <;> rfl

end

theorem execPktParse_answers (src len record cap : Word) :
    Answers s (.pktParse src len record cap) (execPktParse src len record cap s) := by
  refine .withRanges fun hsrc hrec => .ite (fun _ => parseError_answers) fun hlen =>
    .reading (fun _ => by omega) fun h _ => ?_
  dsimp only
  cases sendKind s.cfg (classify s.cfg (byteAt h 0)) with
  | none => exact parseError_answers
  | some k => exact parseKind_answers hsrc hrec (Nat.not_lt.1 hlen)

theorem execMotPack_answers (record dst : Word) : Answers s (.motPack record dst) (execMotPack record dst s) :=
  .withRanges fun hrec hdst => .reading (fun _ => hrec) fun _ _ =>
    .finish (.codec .keep (.store fun _ => by rw [length_motPack]; exact hdst))

theorem execMotUnpack_answers (src record : Word) : Answers s (.motUnpack src record) (execMotUnpack src record s) :=
  .withRanges fun hsrc hrec => .reading (fun _ => hsrc) fun _ _ =>
    .finish (.codec .keep (.store fun _ => by rw [length_motRecord]; exact hrec))

/-! 43_hub.md. -/

@[simp] theorem State.upFull_iff : s.upFull = true ↔ s.upQ.length = s.cfg.upqDepth := beq_iff_eq

@[simp] theorem State.downFull_iff : s.downFull = true ↔ s.downQ.length = s.cfg.downqDepth := beq_iff_eq

/-- A roster change while subscribed waits for room in UpQ. -/
theorem held_of_subscribed_and_full {i : Instr} (hi : ∃ u, i = .hubAttach u ∨ i = .hubDetach u)
    (h : (s.subscribed && s.upFull) = true) : Held s i :=
  .inl ⟨State.upFull_iff.1 (Bool.and_eq_true_iff.1 h).2, .inl hi⟩

theorem room_of_not_subscribed_and_full (h : ¬ (s.subscribed && s.upFull) = true) (hsub : s.subscribed = true) :
    s.upQ.length ≠ s.cfg.upqDepth :=
  fun hfull => h (Bool.and_eq_true_iff.2 ⟨hsub, State.upFull_iff.2 hfull⟩)

theorem execHubAttach_answers (u : Uuid) : Answers s (.hubAttach u) (execHubAttach u s) := by
  refine .ite (fun _ => .finishOnly) fun hnew => .ite (fun _ => .raise (.codec .keep .keep)) fun hcap =>
    .ite (fun hfull => .held (held_of_subscribed_and_full ⟨u, .inl rfl⟩ hfull)) fun hroom => .finish (.hub ?_)
  exact .attach (fun h => hnew (List.contains_iff_mem.2 h)) hcap (room_of_not_subscribed_and_full hroom)

theorem execHubDetach_answers (u : Uuid) : Answers s (.hubDetach u) (execHubDetach u s) :=
  .ite (fun _ => .finishOnly) fun _ =>
    .ite (fun hfull => .held (held_of_subscribed_and_full ⟨u, .inr rfl⟩ hfull)) fun hroom =>
      .finish (.hub (.detach (room_of_not_subscribed_and_full hroom)))

theorem execHubRouteout_answers (u : Uuid) (off len : Word) :
    Answers s (.hubRouteout u off len) (execHubRouteout u off len s) :=
  .withRange fun hrange => .ite (fun _ => .finish (.codec .keep .keep)) fun _ =>
    .ite (fun hfull => .held (.inr ⟨State.downFull_iff.1 hfull, u, off, len, rfl⟩)) fun hroom =>
      .reading (fun _ => hrange) fun bytes _ => .finish (.hub (.routeout bytes fun h => hroom (State.downFull_iff.2 h)))

theorem execHubRoutein_answers (u : Uuid) (off len : Word) :
    Answers s (.hubRoutein u off len) (execHubRoutein u off len s) :=
  .withRange fun hrange =>
    .ite (fun hfull => .held (.inl ⟨State.upFull_iff.1 hfull, .inr (.inl ⟨u, off, len, rfl⟩)⟩)) fun hroom =>
      .reading (fun _ => hrange) fun bytes _ => .finish (.hub (.routein bytes fun h => hroom (State.upFull_iff.2 h)))

theorem execHubRequest_answers : Answers s .hubRequest (execHubRequest s) :=
  .ite (fun hfull => .held (.inl ⟨State.upFull_iff.1 hfull, .inr (.inr (.inl rfl))⟩)) fun hroom =>
    .finish (.hub (.request fun h => hroom (State.upFull_iff.2 h)))

theorem execHubSub_answers : Answers s .hubSub (execHubSub s) :=
  .ite (fun hfull => .held (.inl ⟨State.upFull_iff.1 hfull, .inr (.inr (.inr rfl))⟩)) fun hroom =>
    .finish (.hub (.sub fun h => hroom (State.upFull_iff.2 h)))

/-- Everything a command can do, for every command and every state. -/
theorem exec_answers (i : Instr) : Answers s i (exec i s) := by
  cases i with
  | slipEnc src len dst cap => exact execSlipEnc_answers src len dst cap
  | slipDec off len => exact execSlipDec_answers off len
  | slipRx byte ch => exact execSlipRx_answers byte ch
  | slipRxclr ch => exact execSlipRxclr_answers ch
  | typeClass b => exact execTypeClass_answers b
  | pktSer record dst cap => exact execPktSer_answers record dst cap
  | pktParse src len record cap => exact execPktParse_answers src len record cap
  | motPack record dst => exact execMotPack_answers record dst
  | motUnpack src record => exact execMotUnpack_answers src record
  | hubAttach u => exact execHubAttach_answers u
  | hubDetach u => exact execHubDetach_answers u
  | hubRouteout u off len => exact execHubRouteout_answers u off len
  | hubRoutein u off len => exact execHubRoutein_answers u off len
  | hubRequest => exact execHubRequest_answers
  | hubSub => exact execHubSub_answers
  | hubUnsub => exact .finish (.hub .unsub)
  | ctrClr => exact .finish (.codec .keep .keep)
  | nop | mrkPack _ _ | mrkUnpack _ | convA2w _ | convW2a _ | convG2w _ | convW2g _ => exact .finishOnly

/-- A command that answers a next state has completed after a change, or is held. -/
theorem exec_next_cases {t : State} {i : Instr} (h : exec i s = .next t) :
    (∃ s' code r0 r1, t = s'.complete code r0 r1 ∧ Change s i code s' ∧ (code ≠ .ok → r1 = 0)) ∨ (t = s ∧ Held s i) := by
  have ha := exec_answers (s := s) i
  rw [h] at ha
  cases ha with
  | completes hchange hr1 => exact .inl ⟨_, _, _, _, rfl, hchange, hr1⟩
  | held hheld => exact .inr ⟨rfl, hheld⟩

end

end Sys2Proof.Machine
end

section
/-! PROOFS. What follows from everything a command can do: which banks, hub fields, channels and cells a command leaves
alone, how its completion shows, and at which cells it stops. -/

namespace Sys2Proof.Machine

section
variable {s s' t : State} {i : Instr} {code : StatusCode}

/-! What no change touches. -/

theorem HubChange.frame (h : HubChange s i s') :
    s'.cfg = s.cfg ∧ s'.ports = s.ports ∧ s'.served = s.served ∧ s'.rx = s.rx ∧ s'.buf = s.buf ∧
      s'.upOut = s.upOut ∧ s'.downOut = s.downOut := by
  cases h with
  | attach | detach | routeout | routein | request | sub | unsub => simp

theorem Change.ports_served (h : Change s i code s') : s'.ports = s.ports ∧ s'.served = s.served := by
  cases h with
  | codec => exact ⟨rfl, rfl⟩
  | hub h =>
    obtain ⟨-, hports, hserved, -⟩ := h.frame
    exact ⟨hports, hserved⟩

/-- After any change, the completion is that of the command of the port served before. -/
theorem Change.completes (h : Change s i code s') (r0 r1 : Word) : s.Completes (s'.complete code r0 r1) code r0 r1 :=
  State.complete_completes h.ports_served.1 h.ports_served.2 code r0 r1

/-- A completion shows its code and results in the bank, so two completions of one state to another are the same one. -/
theorem State.Completes.unique {code' : StatusCode} {r0 r1 r0' r1' : Word} {pt : Port}
    (hpt : s.ports[s.served]? = some pt) (h : s.Completes t code r0 r1) (h' : s.Completes t code' r0' r1') :
    code = code' ∧ r0 = r0' ∧ r1 = r1' := by
  obtain ⟨-, -, hbank⟩ := h
  obtain ⟨-, -, hbank'⟩ := h'
  have heq := (hbank pt hpt).symm.trans (hbank' pt hpt)
  simp only [Option.some.injEq, Port.mk.injEq] at heq
  obtain ⟨-, -, -, -, hcode, -, -, hr0, hr1, -⟩ := heq
  exact ⟨hcode, hr0, hr1⟩

/-- A state in which the command is still pending is not one in which it has completed. -/
theorem State.Completes.not_of_pending {r0 r1 : Word} {pt : Port} (hpt : s.ports[s.served]? = some pt)
    (hpend : pt.pending = true) : ¬ s.Completes s code r0 r1 := by
  rintro ⟨-, -, hbank⟩
  have heq := hpt.symm.trans (hbank pt hpt)
  rw [Option.some.injEq] at heq
  have : pt.pending = false := by rw [heq]
  rw [hpend] at this
  cases this

/-! The port banks. -/

/-- Settles O12: a completion writes CODE, RES0, RES1 and PENDING of one bank, a held command nothing. -/
theorem commandLeavesOtherBanksAndArgumentsAlone : Obligations.CommandLeavesOtherBanksAndArgumentsAlone := by
  intro i s t h
  rcases exec_next_cases h with ⟨s', code, r0, r1, rfl, hchange, -⟩ | ⟨rfl, -⟩
  · obtain ⟨hlength, hothers, hbank⟩ := hchange.completes r0 r1
    exact ⟨hlength, hothers, fun pt hpt => ⟨_, hbank pt hpt, rfl, rfl, rfl, rfl, rfl, rfl⟩⟩
  · exact ⟨rfl, fun _ _ => rfl, fun pt hpt => ⟨pt, hpt, rfl, rfl, rfl, rfl, rfl, rfl⟩⟩

/-- Settles O13: the two ways a command answers a next state. -/
theorem commandCompletesOrIsHeld : Obligations.CommandCompletesOrIsHeld := by
  intro i s t h
  rcases exec_next_cases h with ⟨s', code, r0, r1, rfl, hchange, -⟩ | ⟨rfl, hheld⟩
  · exact .inl ⟨code, r0, r1, hchange.completes r0 r1⟩
  · exact .inr ⟨rfl, hheld⟩

/-! Errors. -/

/-- BUF after a command that ends with an error: cells are forgotten at most. -/
theorem BufChange.lookup_of_error {buf : Memory} (h : BufChange s code buf) (hcode : code ≠ .ok) (a : Nat) :
    buf.lookup a = s.buf.lookup a ∨ buf.lookup a = none := by
  cases h with
  | keep => exact .inl rfl
  | store => exact absurd rfl hcode
  | forget b n =>
    rw [Memory.lookup_forget]
    split_ifs
    · exact .inr rfl
    · exact .inl rfl

/-- The channels after a command that ends with an error and is not SLIP.RX. -/
theorem RxChange.eq_of_error {rx : List RxChannel} (h : RxChange s i code rx) (hcode : code ≠ .ok)
    (hi : ∀ b ch, i ≠ .slipRx b ch) : rx = s.rx := by
  cases h with
  | keep => rfl
  | receive heq _ => exact absurd heq (hi _ _)
  | clear _ => exact absurd rfl hcode

/-- Settles O14: an error completes a codec change, which leaves the hub alone, stores nothing and, outside SLIP.RX,
touches no channel. -/
theorem errorsChangeNoHubStateAndWriteNoByte : Obligations.ErrorsChangeNoHubStateAndWriteNoByte := by
  intro i s t pt code r0 r1 h hpt hpend hcompletes hcode
  rcases exec_next_cases h with ⟨s', code', r0', r1', rfl, hchange, hr1⟩ | ⟨rfl, -⟩
  · obtain ⟨rfl, rfl, rfl⟩ := hcompletes.unique hpt (hchange.completes r0' r1')
    refine ⟨hr1 hcode, ?_⟩
    cases hchange with
    | hub _ => exact absurd rfl hcode
    | codec hrx hbuf =>
      exact ⟨rfl, rfl, rfl, rfl, fun hi => hrx.eq_of_error hcode hi, fun a => hbuf.lookup_of_error hcode a⟩
  · exact absurd hcompletes (State.Completes.not_of_pending hpt hpend)

/-! Where a command stops. -/

/-- The invariants bound the bytes a channel holds. -/
theorem State.Inv.rxGood (h : s.Inv) : s.RxGood := h.rx_good

theorem exec_ne_refused (r : Refusal) : exec i s ≠ .refused r := by
  intro h
  have ha := exec_answers (s := s) i
  rw [h] at ha
  cases ha

/-- A command's fault names an Unknown cell of BUF. -/
theorem exec_fault {f : Fault} (hinv : s.Inv) (h : exec i s = .fault f) :
    ∃ x, f = .unknownRead x ∧ x < s.cfg.bufBytes ∧ s.buf.lookup x = none := by
  have ha := exec_answers (s := s) i
  rw [h] at ha
  cases ha with
  | stops hunknown hbound => exact ⟨_, rfl, hbound hinv.rxGood, hunknown⟩

end

/-! The hub fields. -/

/-- What the hub commands do to ROSTER and SUBSCRIBED. -/
theorem HubChange.roster_subscribed {s s' : State} {i : Instr} (h : HubChange s i s') :
    (s'.roster ≠ s.roster → ∃ u, i = .hubAttach u ∨ i = .hubDetach u) ∧
    (s'.subscribed ≠ s.subscribed → (i = .hubSub ∧ s'.subscribed = true) ∨ (i = .hubUnsub ∧ s'.subscribed = false)) := by
  cases h with
  | attach => exact ⟨fun _ => ⟨_, .inl rfl⟩, fun hne => absurd (State.notify_subscribed _) hne⟩
  | detach => exact ⟨fun _ => ⟨_, .inr rfl⟩, fun hne => absurd (State.notify_subscribed _) hne⟩
  | routeout | routein | request => exact ⟨fun hne => absurd rfl hne, fun hne => absurd rfl hne⟩
  | sub => exact ⟨fun hne => absurd rfl hne, fun _ => .inl ⟨rfl, rfl⟩⟩
  | unsub => exact ⟨fun hne => absurd rfl hne, fun _ => .inr ⟨rfl, rfl⟩⟩

end Sys2Proof.Machine
end

section
/-! PROOFS. What a step of each agent does: the accesses of a host and the steps of the consumers, said once; and from
this and from what a command can do, the invariants, the order of the queues, and who changes the hub. -/

namespace Sys2Proof.Machine

section
variable {s t : State}

/-! Hosts and consumers. -/

/-- Everything a host's access can do. -/
inductive HostChange (s : State) : State → Prop where
  | read (p : Nat) (v : Word) : HostChange s (s.noteRead p v)
  | port (q r : Nat) (v : Word) : HostChange s (s.updatePort q (writePort r v))
  | rx (ch r : Nat) (v : Word) : HostChange s (s.updateRx ch (writeRx r v))
  | ignored : HostChange s s
  | store {a : Nat} {bs : List Byte} (h : a + bs.length ≤ s.cfg.bufBytes) : HostChange s (s.store a bs)

theorem writeReg_hostChange (s : State) (off : Nat) (v : Word) : HostChange s (writeReg s off v) := by
  unfold writeReg
  split_ifs
  · exact .port ..
  · exact .ignored
  · exact .rx ..
  · exact .ignored

/-- The bytes a host write stores are no more than its width. -/
theorem length_hostBytes_le (width : Nat) (v : Word) : (hostBytes width v).length ≤ width := List.length_take_le _ _

theorem hostAccess_ensures {p : Nat} {a : Access} : Result.Ensures (HostChange s) (hostAccess p a s) := by
  cases a with
  | regRead off width => exact .ite (.next (.read ..)) (.refused _)
  | regWrite off width v => exact .ite (.next (writeReg_hostChange ..)) (.refused _)
  | bufRead off width => exact .ite (.reading fun _ => .next (.read ..)) (.refused _)
  | bufWrite off width v =>
    intro t ht
    rw [show hostAccess p (.bufWrite off width v) s = if bufAccessOk s off width then
      .next (s.store off (hostBytes width v)) else .refused (.bufferAccess off width) from rfl] at ht
    split at ht
    case isTrue hok =>
      cases ht
      simp only [bufAccessOk, inRange, Bool.and_eq_true, decide_eq_true_eq] at hok
      have := length_hostBytes_le width v
      exact .store (by omega)
    case isFalse => cases ht

theorem hostStep_ensures {p : Nat} {a : Access} : Result.Ensures (HostChange s) (hostStep p a s) :=
  .ite hostAccess_ensures (.refused _)

/-- What a consumer's step does: it hands over the head of the queue, or nothing of an empty one. -/
theorem takeUpstream_cases (s : State) :
    takeUpstream s = s ∨ ∃ e rest, s.upQ = e :: rest ∧ takeUpstream s = { s with upQ := rest, upOut := s.upOut ++ [e] } := by
  cases h : s.upQ with
  | nil => exact .inl (by rw [takeUpstream, h])
  | cons e rest => exact .inr ⟨e, rest, rfl, by rw [takeUpstream, h]⟩

theorem takeDownstream_cases (s : State) :
    takeDownstream s = s ∨
      ∃ e rest, s.downQ = e :: rest ∧ takeDownstream s = { s with downQ := rest, downOut := s.downOut ++ [e] } := by
  cases h : s.downQ with
  | nil => exact .inl (by rw [takeDownstream, h])
  | cons e rest => exact .inr ⟨e, rest, rfl, by rw [takeDownstream, h]⟩

/-- The software's own steps: a step of its program is one of a host or of a consumer, or none. -/
theorem programStep_ensures {P : State → Prop} (hnone : P s)
    (hhost : ∀ program t, HostChange { s with program := program } t → P t)
    (hup : ∀ program, P (takeUpstream { s with program := program }))
    (hdown : ∀ program, P (takeDownstream { s with program := program })) : Result.Ensures P (programStep s) := by
  rcases programStep_cases s with h | ⟨rest, ⟨p, a, h⟩ | h | h⟩ <;> rw [h]
  · exact .next hnone
  · exact fun t ht => hhost rest t (hostStep_ensures t ht)
  · exact .next (hup rest)
  · exact .next (hdown rest)

/-- A step of any agent but reset: nothing, a command or an illegal word at the port served, a host's access, or a
consumer's step. -/
theorem agentStep_ensures {P : State → Prop} {a : AgentStep} (ha : a ≠ .reset) (hnone : P s)
    (hexec : ∀ p i, Result.Ensures P (exec i { s with served := p }))
    (hillegal : ∀ p w, P (({ s with served := p } : State).complete .illegalCommand w 0))
    (hhost : ∀ program t, HostChange { s with program := program } t → P t)
    (hup : ∀ program, P (takeUpstream { s with program := program }))
    (hdown : ∀ program, P (takeDownstream { s with program := program })) : Result.Ensures P (agentStep a s) := by
  cases a with
  | engine p =>
    show Result.Ensures P (engineStep p s)
    unfold engineStep
    cases s.ports[p]? with
    | none => exact .next hnone
    | some pt =>
      refine .ite ?_ (.next hnone)
      cases decode pt.latch with
      | ok i => exact hexec p i
      | error e => exact .raise (hillegal p pt.latch.lop)
  | host p access => exact fun t ht => hhost s.program t (hostStep_ensures t ht)
  | program => exact programStep_ensures hnone hhost hup hdown
  | upstream => exact .next (hup s.program)
  | downstream => exact .next (hdown s.program)
  | reset => exact absurd rfl ha

end

/-! Who changes the hub (10_state.md rule R42, 43_hub.md rule R270). -/

/-- ROSTER and SUBSCRIBED are as in `s`. -/
def State.SameHub (s t : State) : Prop := t.roster = s.roster ∧ t.subscribed = s.subscribed

theorem HostChange.sameHub {s t : State} (h : HostChange s t) : s.SameHub t := by
  cases h with
  | read | port | rx | ignored | store => exact ⟨rfl, rfl⟩

theorem takeUpstream_sameHub (s : State) : s.SameHub (takeUpstream s) := by
  rcases takeUpstream_cases s with h | ⟨e, rest, -, h⟩ <;> rw [h] <;> exact ⟨rfl, rfl⟩

theorem takeDownstream_sameHub (s : State) : s.SameHub (takeDownstream s) := by
  rcases takeDownstream_cases s with h | ⟨e, rest, -, h⟩ <;> rw [h] <;> exact ⟨rfl, rfl⟩

/-- Settles O15: of what a command can do, only a hub change touches ROSTER or SUBSCRIBED; hosts and consumers touch
neither. -/
theorem onlyHubCommandsChangeTheHub : Obligations.OnlyHubCommandsChangeTheHub := by
  refine ⟨fun i s t h => ?command, fun a s t h hengine hreset => ?agent⟩
  case command =>
    rcases exec_next_cases h with ⟨s', code, r0, r1, rfl, hchange, -⟩ | ⟨rfl, -⟩
    · cases hchange with
      | codec => exact ⟨fun hne => absurd rfl hne, fun hne => absurd rfl hne⟩
      | hub hhub => exact hhub.roster_subscribed
    · exact ⟨fun hne => absurd rfl hne, fun hne => absurd rfl hne⟩
  case agent =>
    cases a with
    | engine p => exact absurd rfl (hengine p)
    | reset => exact absurd rfl hreset
    | host p access => exact (hostStep_ensures t h).sameHub
    | program =>
      exact programStep_ensures (P := s.SameHub) ⟨rfl, rfl⟩ (fun _ _ hc => hc.sameHub)
        (fun program => takeUpstream_sameHub { s with program := program })
        (fun program => takeDownstream_sameHub { s with program := program }) t h
    | upstream =>
      cases h
      exact takeUpstream_sameHub s
    | downstream =>
      cases h
      exact takeDownstream_sameHub s

/-! The order of the queues (20_memory.md rule R78, 43_hub.md rule R293). -/

/-- A list has grown at its end by at most one entry. -/
def GrowsByOne {α : Type} (l l' : List α) : Prop := ∃ new : List α, new.length ≤ 1 ∧ l' = l ++ new

theorem GrowsByOne.refl {α : Type} (l : List α) : GrowsByOne l l := ⟨[], Nat.zero_le _, (List.append_nil l).symm⟩

theorem GrowsByOne.push {α : Type} (l : List α) (a : α) : GrowsByOne l (l ++ [a]) := ⟨[a], Nat.le_refl _, rfl⟩

theorem GrowsByOne.append_left {α : Type} {l l' : List α} (h : GrowsByOne l l') (out : List α) :
    GrowsByOne (out ++ l) (out ++ l') := by
  obtain ⟨new, hnew, rfl⟩ := h
  exact ⟨new, hnew, (List.append_assoc ..).symm⟩

/-- What each consumer was handed, followed by its queue, has grown by at most one entry. -/
def State.QueuesGrow (s t : State) : Prop :=
  GrowsByOne (s.upOut ++ s.upQ) (t.upOut ++ t.upQ) ∧ GrowsByOne (s.downOut ++ s.downQ) (t.downOut ++ t.downQ)

theorem State.QueuesGrow.refl (s : State) : s.QueuesGrow s := ⟨.refl _, .refl _⟩

/-- A command pushes at most one entry on each queue. -/
theorem HubChange.queues {s s' : State} {i : Instr} (h : HubChange s i s') :
    GrowsByOne s.upQ s'.upQ ∧ GrowsByOne s.downQ s'.downQ := by
  cases h with
  | attach | detach =>
    simp only [State.notify_upQ, State.notify_downQ]
    split_ifs
    · exact ⟨.push .., .refl _⟩
    · exact ⟨.refl _, .refl _⟩
  | routeout => exact ⟨.refl _, .push ..⟩
  | routein | request | sub => exact ⟨.push .., .refl _⟩
  | unsub => exact ⟨.refl _, .refl _⟩

theorem exec_queuesGrow {s : State} (i : Instr) : Result.Ensures s.QueuesGrow (exec i s) := by
  intro t h
  rcases exec_next_cases h with ⟨s', code, r0, r1, rfl, hchange, -⟩ | ⟨rfl, -⟩
  · cases hchange with
    | codec => exact .refl s
    | hub hhub =>
      obtain ⟨-, -, -, -, -, hupOut, hdownOut⟩ := hhub.frame
      obtain ⟨hup, hdown⟩ := hhub.queues
      rw [State.QueuesGrow, State.complete_upOut, State.complete_downOut, hupOut, hdownOut]
      exact ⟨hup.append_left _, hdown.append_left _⟩
  · exact .refl _

theorem HostChange.queuesGrow {s t : State} (h : HostChange s t) : s.QueuesGrow t := by
  cases h with
  | read | port | rx | ignored | store => exact .refl s

/-- Handing over the head of a queue moves it from the queue to what was handed over. -/
theorem takeUpstream_queuesGrow (s : State) : s.QueuesGrow (takeUpstream s) := by
  rcases takeUpstream_cases s with h | ⟨e, rest, hq, h⟩ <;> rw [h]
  · exact .refl s
  · refine ⟨?_, .refl _⟩
    rw [hq, List.append_cons]
    exact .refl _

theorem takeDownstream_queuesGrow (s : State) : s.QueuesGrow (takeDownstream s) := by
  rcases takeDownstream_cases s with h | ⟨e, rest, hq, h⟩ <;> rw [h]
  · exact .refl s
  · refine ⟨.refl _, ?_⟩
    rw [hq, List.append_cons]
    exact .refl _

/-- Settles O16: every agent but reset keeps the order, and a step is the first agent step of the agenda. -/
theorem queuesDeliverInPushOrder : Obligations.QueuesDeliverInPushOrder := by
  intro s t h hreset
  show s.QueuesGrow t
  cases hagenda : s.agenda with
  | nil =>
    rw [step_nil hagenda] at h
    cases h
    exact .refl s
  | cons a rest =>
    rw [step_cons hagenda] at h
    have ha : a ≠ .reset := by
      rintro rfl
      exact hreset (by rw [hagenda]; rfl)
    exact agentStep_ensures (s := { s with agenda := rest }) (P := s.QueuesGrow) ha (.refl s)
      (fun p i => exec_queuesGrow (s := { s with agenda := rest, served := p }) i) (fun _ _ => .refl s)
      (fun _ _ hc => hc.queuesGrow) (fun program => takeUpstream_queuesGrow { s with agenda := rest, program := program })
      (fun program => takeDownstream_queuesGrow { s with agenda := rest, program := program }) t h

/-! The invariants. -/

/-- An entry of a list of which one entry was changed. -/
theorem mem_modify_cases {α : Type} {l : List α} {i : Nat} {f : α → α} {a : α} (h : a ∈ l.modify i f) :
    a ∈ l ∨ ∃ x, l[i]? = some x ∧ a = f x := by
  obtain ⟨j, hj⟩ := List.getElem?_of_mem h
  by_cases hij : i = j
  · subst hij
    rw [List.getElem?_modify_eq, Option.map_eq_map, Option.map_eq_some_iff] at hj
    obtain ⟨x, hx, rfl⟩ := hj
    exact .inr ⟨x, hx, rfl⟩
  · rw [List.getElem?_modify_ne f l hij] at hj
    exact .inl (List.mem_of_getElem? hj)

/-- Changing one channel in a way that keeps it good keeps all of them good. -/
theorem rxGood_modify {rx : List RxChannel} {ch : Nat} {f : RxChannel → RxChannel} (h : ∀ c ∈ rx, c.Good)
    (hf : ∀ c, rx[ch]? = some c → c.Good → (f c).Good) : ∀ c ∈ rx.modify ch f, c.Good := by
  intro c hc
  rcases mem_modify_cases hc with hmem | ⟨x, hx, rfl⟩
  · exact h c hmem
  · exact hf x hx (h x (List.mem_of_getElem? hx))

theorem clearRx_good (c : RxChannel) : (clearRx c).Good := RxChannel.good_of_len_eq_zero rfl

theorem writeRx_good (r : Nat) (v : Word) {c : RxChannel} (h : c.Good) : (writeRx r v c).Good := by
  unfold writeRx
  split_ifs
  · exact clearRx_good _
  · exact clearRx_good _
  · exact h

namespace State.Inv

section
variable {s s' : State} {i : Instr} {code : StatusCode}

/-- The invariants say nothing of the environment, nor of what a bank holds. -/
theorem of_environment (h : s.Inv) (agenda : List AgentStep) (program : List ProgramStep) (served : Nat)
    (upOut : List UpEntry) (downOut : List DownEntry) (hostReads : List (Nat × Word)) :
    State.Inv { s with agenda, program, served, upOut, downOut, hostReads } :=
  ⟨h.cfg_wf, h.ports_length, h.rx_length, h.roster_length, h.roster_nodup, h.upQ_length, h.downQ_length, h.rx_good,
    h.buf_wf, h.buf_bound⟩

theorem updatePort (h : s.Inv) (p : Nat) (f : Port → Port) : (s.updatePort p f).Inv :=
  ⟨h.cfg_wf, (List.length_modify ..).trans h.ports_length, h.rx_length, h.roster_length, h.roster_nodup, h.upQ_length,
    h.downQ_length, h.rx_good, h.buf_wf, h.buf_bound⟩

/-- A change of channels, cells and counters that keeps the channels good and BUF in bounds. -/
theorem codec (h : s.Inv) {rx : List RxChannel} {buf : Memory} (counters : Counters)
    (hlength : rx.length = s.rx.length) (hgood : ∀ c ∈ rx, c.Good) (hwf : buf.wf = true)
    (hbound : ∀ c ∈ buf, c.1 < s.cfg.bufBytes) :
    State.Inv { s with rx := rx, buf := buf, counters := counters } :=
  ⟨h.cfg_wf, h.ports_length, hlength.trans h.rx_length, h.roster_length, h.roster_nodup, h.upQ_length, h.downQ_length,
    hgood, hwf, hbound⟩

theorem updateRx (h : s.Inv) {ch : Nat} {f : RxChannel → RxChannel}
    (hf : ∀ c, s.rx[ch]? = some c → c.Good → (f c).Good) : (s.updateRx ch f).Inv :=
  h.codec s.counters (List.length_modify ..) (rxGood_modify h.rx_good hf) h.buf_wf h.buf_bound

/-- A store within BUF adds no cell past its end. -/
theorem write_bound (h : s.Inv) {a : Nat} {bs : List Byte} (hle : a + bs.length ≤ s.cfg.bufBytes) :
    ∀ c ∈ s.buf.write a bs, c.1 < s.cfg.bufBytes := by
  intro c hc
  rcases Memory.mem_write hc with hmem | ⟨-, hlt⟩
  · exact h.buf_bound c hmem
  · omega

theorem store (h : s.Inv) {a : Nat} {bs : List Byte} (hle : a + bs.length ≤ s.cfg.bufBytes) : (s.store a bs).Inv :=
  h.codec s.counters rfl h.rx_good (Memory.wf_write _ _ _ h.buf_wf) (h.write_bound hle)

/-- A change of the hub that keeps the roster without duplicates and all three lists within their bounds. -/
theorem hub (h : s.Inv) {roster : List Uuid} (subscribed : Bool) {upQ : List UpEntry} {downQ : List DownEntry}
    (hroster : roster.length ≤ s.cfg.rosterCap) (hnodup : roster.Nodup) (hup : upQ.length ≤ s.cfg.upqDepth)
    (hdown : downQ.length ≤ s.cfg.downqDepth) :
    State.Inv { s with roster := roster, subscribed := subscribed, upQ := upQ, downQ := downQ } :=
  ⟨h.cfg_wf, h.ports_length, h.rx_length, hroster, hnodup, hup, hdown, h.rx_good, h.buf_wf, h.buf_bound⟩

/-- One entry more fits a queue that is within its depth and not full. -/
theorem length_push_le {α : Type} {l : List α} {n : Nat} (a : α) (hle : l.length ≤ n) (hne : l.length ≠ n) :
    (l ++ [a]).length ≤ n := by
  rw [List.length_append, List.length_singleton]
  omega

/-- A roster change with its snapshot, where there is room for it. -/
theorem notify (h : s.Inv) {roster : List Uuid} (hroster : roster.length ≤ s.cfg.rosterCap) (hnodup : roster.Nodup)
    (hroom : s.subscribed = true → s.upQ.length ≠ s.cfg.upqDepth) :
    ({ s with roster := roster } : State).notify.Inv := by
  unfold State.notify
  split
  case isTrue hsub =>
    exact h.hub s.subscribed hroster hnodup (length_push_le _ h.upQ_length (hroom hsub)) h.downQ_length
  case isFalse => exact h.hub s.subscribed hroster hnodup h.upQ_length h.downQ_length

/-! The invariants after each thing a step can do. -/

theorem hubChange (h : s.Inv) (hc : HubChange s i s') : s'.Inv := by
  cases hc with
  | @attach u hnew hcap hroom =>
    refine h.notify (length_push_le u h.roster_length hcap) ?_ hroom
    exact List.nodup_append.2 ⟨h.roster_nodup, List.nodup_singleton u, fun a ha b hb hab =>
      hnew (List.mem_singleton.1 hb ▸ hab ▸ ha)⟩
  | detach hroom =>
    exact h.notify ((List.length_filter_le ..).trans h.roster_length) (h.roster_nodup.filter _) hroom
  | routeout bytes hroom =>
    exact h.hub s.subscribed h.roster_length h.roster_nodup h.upQ_length (length_push_le _ h.downQ_length hroom)
  | routein bytes hroom =>
    exact h.hub s.subscribed h.roster_length h.roster_nodup (length_push_le _ h.upQ_length hroom) h.downQ_length
  | request hroom =>
    exact h.hub s.subscribed h.roster_length h.roster_nodup (length_push_le _ h.upQ_length hroom) h.downQ_length
  | sub hroom => exact h.hub true h.roster_length h.roster_nodup (length_push_le _ h.upQ_length hroom) h.downQ_length
  | unsub => exact h.hub false h.roster_length h.roster_nodup h.upQ_length h.downQ_length

theorem rxChange (h : s.Inv) {rx : List RxChannel} (hc : RxChange s i code rx) :
    rx.length = s.rx.length ∧ ∀ c ∈ rx, c.Good := by
  cases hc with
  | keep => exact ⟨rfl, h.rx_good⟩
  | receive _ hf => exact ⟨List.length_modify .., rxGood_modify h.rx_good hf⟩
  | clear _ => exact ⟨List.length_modify .., rxGood_modify h.rx_good fun c _ _ => clearRx_good c⟩

theorem bufChange (h : s.Inv) {buf : Memory} (hc : BufChange s code buf) :
    buf.wf = true ∧ ∀ c ∈ buf, c.1 < s.cfg.bufBytes := by
  cases hc with
  | keep => exact ⟨h.buf_wf, h.buf_bound⟩
  | store hle => exact ⟨Memory.wf_write _ _ _ h.buf_wf, h.write_bound (hle h.rx_good)⟩
  | forget a n => exact ⟨Memory.wf_forget _ _ _ h.buf_wf, fun c hc => h.buf_bound c (Memory.mem_forget hc)⟩

theorem change (h : s.Inv) (hc : Change s i code s') : s'.Inv := by
  cases hc with
  | codec hrx hbuf =>
    obtain ⟨hlength, hgood⟩ := h.rxChange hrx
    obtain ⟨hwf, hbound⟩ := h.bufChange hbuf
    exact h.codec _ hlength hgood hwf hbound
  | hub hhub => exact h.hubChange hhub

theorem after_exec (h : s.Inv) (i : Instr) : Result.Ensures State.Inv (exec i s) := by
  intro t ht
  rcases exec_next_cases ht with ⟨s', code, r0, r1, rfl, hchange, -⟩ | ⟨rfl, -⟩
  · exact (h.change hchange).updatePort _ _
  · exact h

theorem hostChange (h : s.Inv) (hc : HostChange s s') : s'.Inv := by
  cases hc with
  | read p v => exact h.of_environment ..
  | port q r v => exact h.updatePort _ _
  | rx ch r v => exact h.updateRx fun c _ hgood => writeRx_good r v hgood
  | ignored => exact h
  | store hle => exact h.store hle

theorem after_takeUpstream (h : s.Inv) : (takeUpstream s).Inv := by
  rcases takeUpstream_cases s with heq | ⟨e, rest, hq, heq⟩ <;> rw [heq]
  · exact h
  · have hlength := h.upQ_length
    rw [hq, List.length_cons] at hlength
    exact (h.hub s.subscribed h.roster_length h.roster_nodup (upQ := rest) (by omega) h.downQ_length).of_environment ..

theorem after_takeDownstream (h : s.Inv) : (takeDownstream s).Inv := by
  rcases takeDownstream_cases s with heq | ⟨e, rest, hq, heq⟩ <;> rw [heq]
  · exact h
  · have hlength := h.downQ_length
    rw [hq, List.length_cons] at hlength
    exact (h.hub s.subscribed h.roster_length h.roster_nodup h.upQ_length (downQ := rest) (by omega)).of_environment ..

/-- The state right after reset, in a configuration within its constraints. -/
theorem of_resetOf {c : Config} (h : c.wf = true) : (State.resetOf c).Inv where
  cfg_wf := h
  ports_length := List.length_replicate
  rx_length := List.length_replicate
  roster_length := Nat.zero_le _
  roster_nodup := List.nodup_nil
  upQ_length := Nat.zero_le _
  downQ_length := Nat.zero_le _
  rx_good := fun c hc => RxChannel.good_of_len_eq_zero (by rw [List.eq_of_mem_replicate hc]; rfl)
  buf_wf := rfl
  buf_bound := fun _ hc => absurd hc List.not_mem_nil

theorem after_agentStep (h : s.Inv) (a : AgentStep) : Result.Ensures State.Inv (agentStep a s) := by
  by_cases ha : a = .reset
  · subst ha
    exact .next ((of_resetOf h.cfg_wf).of_environment ..)
  · exact agentStep_ensures ha h (fun p i => after_exec (h.of_environment ..) i)
      (fun p w => (h.of_environment ..).updatePort _ _) (fun _ _ hc => (h.of_environment ..).hostChange hc)
      (fun program => after_takeUpstream (h.of_environment ..)) (fun program => after_takeDownstream (h.of_environment ..))

end

end State.Inv

/-- Settles O7: the invariants do not look at the agenda, and every agent's step keeps them. -/
theorem everyStepKeepsTheInvariants : Obligations.EveryStepKeepsTheInvariants := by
  intro s t hs h
  cases hagenda : s.agenda with
  | nil =>
    rw [step_nil hagenda] at h
    cases h
    exact hs
  | cons a rest =>
    rw [step_cons hagenda] at h
    exact State.Inv.after_agentStep (s := { s with agenda := rest }) (hs.of_environment ..) a t h

/-- Settles O8: the reset state of any configuration within its constraints has empty lists and empty channels. -/
theorem resetHasTheInvariants : Obligations.ResetHasTheInvariants :=
  ⟨fun _ hc => State.Inv.of_resetOf hc, State.Inv.of_resetOf (by decide)⟩

end Sys2Proof.Machine
end

section
/-! PROOFS. PKT.SER and PKT.PARSE check by check (41_packet.md rules R200 and R205): what each command goes on to once a
check is passed and the cells it reads are Known, so that no later proof unfolds them. -/

namespace Sys2Proof.Machine

/-! Reads that follow one another. -/

/-- The first Unknown cell of a range stands in its first part, or that part is Known and it stands in the rest. -/
theorem Memory.FirstUnknown.split {m : Memory} {a n n' x : Nat} (h : m.FirstUnknown a (n + n') x) :
    m.FirstUnknown a n x ∨ (∃ bs, bs.length = n ∧ m.Holds a bs) ∧ m.FirstUnknown (a + n) n' x := by
  obtain ⟨hlo, hhi, hnone, hknown⟩ := h
  rcases Nat.lt_or_ge x (a + n) with hx | hx
  · exact .inl ⟨hlo, hx, hnone, hknown⟩
  · refine .inr ⟨?_, hx, by omega, hnone, fun y hy hyx => hknown y (by omega) hyx⟩
    cases hread : m.read a n with
    | ok bs => exact ⟨bs, Memory.holds_of_read hread⟩
    | error off =>
      obtain ⟨h1, h2, h3, -⟩ := Memory.read_error _ _ _ _ hread
      exact absurd h3 (hknown off h1 (by omega))

/-- A range with an Unknown cell in it is not empty. -/
theorem Memory.FirstUnknown.pos {m : Memory} {a n x : Nat} (h : m.FirstUnknown a n x) : 0 < n := by
  obtain ⟨hlo, hhi, -, -⟩ := h
  omega

/-- The cells of a single byte. -/
theorem Memory.holds_singleton {m : Memory} {a : Nat} {b : Byte} (h : m.lookup a = some b) : m.Holds a [b] := by
  intro i c hc
  obtain ⟨hi, rfl⟩ := List.getElem?_eq_some_iff.1 hc
  obtain rfl : i = 0 := Nat.lt_one_iff.1 hi
  exact h

/-- The beginning of a range and what follows it, in the cells. -/
theorem Memory.Holds.left {m : Memory} {a : Nat} {bs bs' : List Byte} (h : m.Holds a (bs ++ bs')) : m.Holds a bs := by
  intro i b hb
  refine h i b ?_
  rw [List.getElem?_append_left (List.getElem?_eq_some_iff.1 hb).1, hb]

theorem Memory.Holds.right {m : Memory} {a : Nat} {bs bs' : List Byte} (h : m.Holds a (bs ++ bs')) :
    m.Holds (a + bs.length) bs' := by
  intro i b hb
  rw [Nat.add_assoc]
  refine h (bs.length + i) b ?_
  rw [List.getElem?_append_right (Nat.le_add_right _ _), Nat.add_sub_cancel_left, hb]

/-- Two Known ranges that follow each other are one. -/
theorem Memory.Holds.append {m : Memory} {a : Nat} {bs bs' : List Byte} (h : m.Holds a bs)
    (h' : m.Holds (a + bs.length) bs') : m.Holds a (bs ++ bs') := by
  intro i b hb
  rcases Nat.lt_or_ge i bs.length with hi | hi
  · rw [List.getElem?_append_left hi] at hb
    exact h i b hb
  · rw [List.getElem?_append_right hi] at hb
    have hcell := h' (i - bs.length) b hb
    rwa [show a + bs.length + (i - bs.length) = a + i by omega] at hcell

/-- A word's low byte is the byte at its index. -/
@[simp] theorem setWidth_wordAt (bs : List Byte) (i : Nat) : (wordAt bs i).setWidth 8 = byteAt bs i := by
  apply BitVec.eq_of_toNat_eq
  have := (byteAt bs i).isLt
  rw [BitVec.toNat_setWidth, wordAt_toNat]
  omega

/-! Reads inside a range whose bytes are Known. -/

theorem byteAt_take {bs : List Byte} {n i : Nat} (h : i < n) : byteAt (bs.take n) i = byteAt bs i := by
  rw [byteAt, byteAt, List.getD_eq_getElem?_getD, List.getD_eq_getElem?_getD, List.getElem?_take_of_lt h]

theorem wordAt_take {bs : List Byte} {n i : Nat} (h : i + 4 ≤ n) : wordAt (bs.take n) i = wordAt bs i := by
  rw [wordAt, wordAt, byteAt_take (by omega), byteAt_take (by omega), byteAt_take (by omega), byteAt_take (by omega)]

theorem wordAt_drop (bs : List Byte) (n i : Nat) : wordAt (bs.drop n) i = wordAt bs (n + i) := by
  rw [wordAt, wordAt, byteAt_drop, byteAt_drop, byteAt_drop, byteAt_drop]
  rfl

theorem Memory.Holds.take {m : Memory} {a : Nat} {bs : List Byte} (h : m.Holds a bs) (n : Nat) :
    m.Holds a (bs.take n) := by
  rw [← List.take_append_drop n bs] at h
  exact h.left

theorem Memory.Holds.drop {m : Memory} {a n : Nat} {bs : List Byte} (h : m.Holds a bs) (hn : n ≤ bs.length) :
    m.Holds (a + n) (bs.drop n) := by
  rw [← List.take_append_drop n bs] at h
  have hright := h.right
  rwa [List.length_take_of_le hn] at hright

/-- A read of the beginning of a Known range. -/
theorem State.reading_prefix {s : State} {a n : Nat} {bs : List Byte} (k : List Byte → Result) (h : s.buf.Holds a bs)
    (hn : n ≤ bs.length) : s.reading a n k = k (bs.take n) :=
  State.reading_of_holds k (List.length_take_of_le hn) (h.take n)

/-- A read of one Known cell. -/
theorem State.reading_byte {s : State} {a : Nat} {b : Byte} (k : List Byte → Result) (h : s.buf.lookup a = some b) :
    s.reading a 1 k = k [b] := State.reading_of_holds k rfl (Memory.holds_singleton h)

/-- A read of a word inside a Known range. -/
theorem State.reading_word {s : State} {a n : Nat} {bs : List Byte} (k : Word → Result) (h : s.buf.Holds a bs)
    (hn : n + 4 ≤ bs.length) : (s.reading (a + n) 4 fun w => k (wordAt w 0)) = k (wordAt bs n) := by
  rw [State.reading_prefix _ (h.drop (by omega)) (by rw [List.length_drop]; omega), wordAt_take (by omega), wordAt_drop,
    Nat.add_zero]

/-! PKT.SER (rule R200). -/

section
variable {s : State} {record dst cap : Word} {h : List Byte} {k : Kind}

/-- PKT.SER with its first 8 bytes Known turns on the class of the type byte. -/
theorem exec_pktSer (hrange : record.toNat + 8 ≤ s.cfg.bufBytes) (hh : s.buf.Holds record.toNat h) (h8 : 8 ≤ h.length) :
    exec (.pktSer record dst cap) s =
      match classify s.cfg (byteAt h 0) with
      | .invalid => s.raise .unrecognizedPacketId ((byteAt h 0).setWidth 32)
      | .endMark | .vendorStart | .vendorEnd => s.raise .notSendable ((byteAt h 0).setWidth 32)
      | .catalog b => serKind record.toNat dst.toNat cap.toNat (byteAt h 0) (byteAt h 4) (catalogKind s.cfg b) s
      | .vendor _ => serKind record.toNat dst.toNat cap.toNat (byteAt h 0) (byteAt h 4) .vend s := by
  rw [show exec (.pktSer record dst cap) s = execPktSer record dst cap s from rfl, execPktSer, withRange_eq,
    if_pos hrange, State.reading_prefix _ hh h8]
  simp only [setWidth_wordAt, byteAt_take (show 0 < 8 by decide), byteAt_take (show 4 < 8 by decide)] <;> rfl

/-- PKT.SER of a sendable type goes on with its kind. -/
theorem exec_pktSer_sendable (hrange : record.toNat + 8 ≤ s.cfg.bufBytes) (hh : s.buf.Holds record.toNat h)
    (h8 : 8 ≤ h.length) (hk : sendKind s.cfg (classify s.cfg (byteAt h 0)) = some k) :
    exec (.pktSer record dst cap) s =
      serKind record.toNat dst.toNat cap.toNat (byteAt h 0) (byteAt h 4) k s := by
  rw [exec_pktSer hrange hh h8]
  generalize classify s.cfg (byteAt h 0) = x at hk ⊢
  cases x with
  | catalog _ | vendor _ => cases hk; rfl
  | endMark | invalid | vendorStart | vendorEnd => cases hk

section
variable {record dst cap len : Nat} {t id : Byte}

/-- The LEN word matters to the opaque kinds only. -/
theorem serSized_of_described (hk : k.described = true) :
    serSized record dst cap t id k len s = serSized record dst cap t id k 0 s := by
  cases k with
  | obj | mrk | acc | ver => rfl
  | fix _ | var | vend => cases hk

/-- The kind's checks, once an opaque kind's LEN word is Known. -/
theorem serKind_eq_serSized (hh : s.buf.Holds record h)
    (hlen : k ≠ .vend → k.described = false →
      record + 12 ≤ s.cfg.bufBytes ∧ 12 ≤ h.length ∧ (wordAt h 8).toNat = len) :
    serKind record dst cap t id k s = serSized record dst cap t id k len s := by
  cases k with
  | obj | mrk | acc | ver | vend => rfl
  | fix _ | var =>
    obtain ⟨hrange, h12, rfl⟩ := hlen nofun rfl
    rw [serKind, withRange_eq, if_pos hrange]
    exact State.reading_word (fun w => serSized record dst cap t id _ w.toNat s) hh h12

/-- The end of PKT.SER: what it answers once the capacity suffices and the record is Known. -/
theorem serWrite_of_holds {plen readLen : Nat} {r : List Byte} (hcap : 4 + plen ≤ cap) (hlen : r.length = readLen)
    (hr : s.buf.Holds record r) :
    serWrite record dst cap t id k plen readLen s =
      .next ((s.store dst (packetHeader plen t id ++ packPayload k r)).complete .ok (wordOf (4 + plen)) (wordOf plen)) := by
  rw [serWrite, if_neg (Nat.not_lt.2 hcap), State.reading_of_holds _ hlen hr]
  rfl

theorem serWrite_of_lt {plen readLen : Nat} (hcap : cap < 4 + plen) :
    serWrite record dst cap t id k plen readLen s =
      .next (s.complete .notEnoughCapacity (wordOf (4 + plen)) 0) := by
  rw [serWrite, if_pos hcap]
  rfl

theorem serChecked_of_described (hk : k.described = true) :
    serChecked record dst cap t id k len s = serWrite record dst cap t id k (payloadLen k 0) (hostSize k 0) s := by
  cases k with
  | obj | mrk | acc | ver => rfl
  | fix _ | var | vend => cases hk

/-- A vendor LEN word that is Known decides between InvalidField and the data's end. -/
theorem serChecked_vend (hh : s.buf.Holds record h) (h16 : 16 ≤ h.length) :
    serChecked record dst cap t id .vend len s =
      if 98 < (wordAt h 12).toNat then .next (s.complete .invalidField 12 0)
      else serWrite record dst cap t id .vend 100 (16 + (wordAt h 12).toNat) s :=
  State.reading_word (fun w => if 98 < w.toNat then s.raise .invalidField 12
    else serWrite record dst cap t id .vend 100 (16 + w.toNat) s) hh h16

theorem serChecked_fix {n : Nat} :
    serChecked record dst cap t id (.fix n) len s =
      if len = n then serWrite record dst cap t id (.fix n) n (12 + n) s
      else .next (s.complete .invalidField 8 0) := by
  by_cases hlen : len = n
  · subst hlen
    rw [if_pos rfl, serChecked, if_neg (not_not.2 rfl)]
    rfl
  · rw [if_neg hlen, serChecked, if_pos hlen]
    rfl

theorem serChecked_var :
    serChecked record dst cap t id .var len s =
      if len % 2 = 1 ∨ 131066 < len then .next (s.complete .invalidField 8 0)
      else serWrite record dst cap t id .var len (12 + len) s := rfl

end

/-- PKT.SER of a sendable type with its three ranges checked goes on with the field checks. -/
theorem exec_pktSer_checked {len : Nat} (hh : s.buf.Holds record.toNat h) (h8 : 8 ≤ h.length)
    (hk : sendKind s.cfg (classify s.cfg (byteAt h 0)) = some k)
    (hlen : k ≠ .vend → k.described = false → 12 ≤ h.length ∧ (wordAt h 8).toNat = len)
    (hrec : record.toNat + hostSize k len ≤ s.cfg.bufBytes) (hdst : dst.toNat + cap.toNat ≤ s.cfg.bufBytes)
    (hapart : Apart record.toNat (hostSize k len) dst.toNat cap.toNat) :
    exec (.pktSer record dst cap) s =
      serChecked record.toNat dst.toNat cap.toNat (byteAt h 0) (byteAt h 4) k len s := by
  have hsize : 8 ≤ hostSize k len ∧ (k ≠ .vend → k.described = false → 12 ≤ hostSize k len) := by
    cases k with
    | obj | mrk | acc | ver | vend => simp [hostSize, Kind.described]
    | fix _ | var =>
      simp only [hostSize]
      omega
  rw [exec_pktSer_sendable (by omega) hh h8 hk,
    serKind_eq_serSized (len := len) hh fun hv ho => ⟨by have := hsize.2 hv ho; omega, hlen hv ho⟩, serSized,
    withRanges_of_apart _ _ _ hrec hdst hapart]

end

/-! PKT.PARSE (rule R205). -/

section
variable {s : State} {src len record cap : Word} {t : Byte}

/-- PKT.PARSE of enough input with its type byte Known turns on the type's kind. -/
theorem exec_pktParse (hsrc : src.toNat + len.toNat ≤ s.cfg.bufBytes) (hrec : record.toNat + cap.toNat ≤ s.cfg.bufBytes)
    (hapart : Apart src.toNat len.toNat record.toNat cap.toNat) (h3 : 3 ≤ len.toNat)
    (ht : s.buf.lookup (src.toNat + 2) = some t) :
    exec (.pktParse src len record cap) s =
      match sendKind s.cfg (classify s.cfg t) with
      | none => parseError .unrecognizedPacketId (t.setWidth 32) s
      | some k => parseKind src.toNat len.toNat record.toNat cap.toNat t k s := by
  rw [show exec (.pktParse src len record cap) s = execPktParse src len record cap s from rfl, execPktParse,
    withRanges_of_apart _ _ _ hsrc hrec hapart, if_neg (Nat.not_lt.2 h3),
    State.reading_byte _ ht]
  rfl

section
variable {src len record cap : Nat} {id : Byte} {k : Kind} {p : List Byte}

theorem parseError_eq (code : StatusCode) (r0 : Word) (s : State) :
    parseError code r0 s = .next ((s.count countParseErr).complete code r0 0) := rfl

/-- Only VAR takes its payload's length from the word-count (rule R206). -/
theorem parseKind_of_ne_var (hk : k ≠ .var) :
    parseKind src len record cap t k s = parseSized src len record cap t k (payloadLen k 0) s := by
  cases k with
  | var => exact absurd rfl hk
  | obj | mrk | acc | ver | vend | fix _ => rfl

theorem parseKind_var {w : Half} (hw : s.buf.Holds src (le16 w)) :
    parseKind src len record cap t .var s =
      if w.toNat < 2 then parseError .invalidBitPattern (w.setWidth 32) s
      else parseSized src len record cap t .var (2 * w.toNat - 4) s := by
  have hword : halfAt (le16 w) 0 = w := u16le_le16 w
  rw [parseKind, State.reading_of_holds _ (length_le16 w) hw, hword]

/-- The kind's checks, once a VAR packet's word-count is Known. -/
theorem parseKind_eq_parseSized {w : Half} (hw : k = .var → 2 ≤ w.toNat ∧ s.buf.Holds src (le16 w)) :
    parseKind src len record cap t k s =
      parseSized src len record cap t k (payloadLen k (2 * w.toNat - 4)) s := by
  cases k with
  | var =>
    obtain ⟨h2, hholds⟩ := hw rfl
    rw [parseKind_var hholds, if_neg (Nat.not_lt.2 h2)]
    rfl
  | obj | mrk | acc | ver | vend | fix _ => rfl

theorem parseSized_of_lt {plen : Nat} (hlen : len < 4 + plen) :
    parseSized src len record cap t k plen s = parseError .unexpectedEof (t.setWidth 32) s := if_pos hlen

/-- With enough input and the id and the payload Known, the payload's checks come next. -/
theorem parseSized_of_holds {plen : Nat} (hlen : 4 + plen ≤ len) (hp : p.length = plen)
    (hholds : s.buf.Holds (src + 3) ([id] ++ p)) :
    parseSized src len record cap t k plen s = parseChecked record cap t id k p s := by
  rw [parseSized, if_neg (Nat.not_lt.2 hlen), State.reading_byte _ (hholds 0 id rfl),
    State.reading_of_holds (a := src + 4) _ hp hholds.right]
  rfl

theorem parseChecked_of_described (hk : k.described = true) :
    parseChecked record cap t id k p s = parseWrite record cap t id k p s := by
  cases k with
  | obj | mrk | acc | ver => rfl
  | fix _ | var | vend => cases hk

theorem parseChecked_vend :
    parseChecked record cap t id .vend p s =
      if 98 < (byteAt p 1).toNat then parseError .invalidBitPattern ((byteAt p 1).setWidth 32) s
      else parseWrite record cap t id .vend p s := rfl

/-- An opaque payload ends as OPAQUE_VALIDATE says (rule R197). -/
theorem parseChecked_of_opaque (hk : k.described = false) (hv : k ≠ .vend) :
    parseChecked record cap t id k p s =
      match Config.opaqueValidate t p with
      | .accepted => parseWrite record cap t id k p s
      | .unrecognizedPort => parseError .unrecognizedPort 0 s
      | .unrecognizedStreamUpdateAction b => parseError .unrecognizedStreamUpdateAction (b.setWidth 32) s
      | .invalidBitPattern => parseError .invalidBitPattern 0 s := by
  cases k with
  | fix _ | var =>
    unfold parseChecked
    cases Config.opaqueValidate t p <;> rfl
  | vend => exact absurd rfl hv
  | obj | mrk | acc | ver => cases hk

/-- The end of PKT.PARSE turns on the record's capacity. -/
theorem parseWrite_eq :
    parseWrite record cap t id k p s = .next
      (if hostSize k p.length ≤ cap then
        (s.store record (le32 (t.setWidth 32) ++ le32 (id.setWidth 32) ++ unpackPayload k p)).complete .ok
          (wordOf (4 + p.length)) (wordOf (hostSize k p.length))
      else s.complete .notEnoughCapacity (wordOf (hostSize k p.length)) 0) := by
  by_cases hcap : hostSize k p.length ≤ cap
  · rw [if_pos hcap]
    exact if_neg (Nat.not_lt.2 hcap)
  · rw [if_neg hcap]
    exact if_pos (Nat.not_le.1 hcap)

end

end

end Sys2Proof.Machine
end

section
/-! PROOFS. Where each MemRead of a command stops it (20_memory.md rule R72): with the checks before it passed and the
cells read before it Known, the command faults at the first Unknown cell of the read. -/

namespace Sys2Proof.Machine

section
variable {s : State} {x : Nat}

/-! The commands that read one range (40_slip.md, 41_packet.md section 8, 43_hub.md section 3). -/

section
variable {a n : Word} (hrange : a.toNat + n.toNat ≤ s.cfg.bufBytes) (hx : s.buf.FirstUnknown a.toNat n.toNat x)
include hrange hx

theorem slipDec_stops : exec (.slipDec a n) s = .fault (.unknownRead x) := by
  rw [show exec (.slipDec a n) s = execSlipDec a n s from rfl, execSlipDec, withRange_eq, if_pos hrange,
    State.reading_of_firstUnknown _ hx]

theorem slipEnc_stops {c d : Word} (hdst : c.toNat + d.toNat ≤ s.cfg.bufBytes)
    (hapart : Apart a.toNat n.toNat c.toNat d.toNat) : exec (.slipEnc a n c d) s = .fault (.unknownRead x) := by
  rw [show exec (.slipEnc a n c d) s = execSlipEnc a n c d s from rfl, execSlipEnc,
    withRanges_of_apart _ _ _ hrange hdst hapart, State.reading_of_firstUnknown _ hx]

theorem hubRouteout_stops {u : Uuid} (hu : u ∈ s.roster) (hroom : s.downQ.length ≠ s.cfg.downqDepth) :
    exec (.hubRouteout u a n) s = .fault (.unknownRead x) := by
  have hpresent : ¬ (!s.roster.contains u) = true := by simpa using hu
  rw [show exec (.hubRouteout u a n) s = execHubRouteout u a n s from rfl, execHubRouteout, withRange_eq,
    if_pos hrange, if_neg hpresent, if_neg (fun h => hroom (State.downFull_iff.1 h)),
    State.reading_of_firstUnknown _ hx]

theorem hubRoutein_stops {u : Uuid} (hroom : s.upQ.length ≠ s.cfg.upqDepth) :
    exec (.hubRoutein u a n) s = .fault (.unknownRead x) := by
  rw [show exec (.hubRoutein u a n) s = execHubRoutein u a n s from rfl, execHubRoutein, withRange_eq, if_pos hrange,
    if_neg (fun h => hroom (State.upFull_iff.1 h)), State.reading_of_firstUnknown _ hx]

end

theorem motPack_stops {a c : Word} (ha : a.toNat + 56 ≤ s.cfg.bufBytes) (hc : c.toNat + 16 ≤ s.cfg.bufBytes)
    (hapart : Apart a.toNat 56 c.toNat 16) (hx : s.buf.FirstUnknown a.toNat 56 x) :
    exec (.motPack a c) s = .fault (.unknownRead x) := by
  rw [show exec (.motPack a c) s = execMotPack a c s from rfl, execMotPack,
    withRanges_of_apart _ _ _ ha hc hapart, State.reading_of_firstUnknown _ hx]

theorem motUnpack_stops {a c : Word} (ha : a.toNat + 16 ≤ s.cfg.bufBytes) (hc : c.toNat + 56 ≤ s.cfg.bufBytes)
    (hapart : Apart a.toNat 16 c.toNat 56) (hx : s.buf.FirstUnknown a.toNat 16 x) :
    exec (.motUnpack a c) s = .fault (.unknownRead x) := by
  rw [show exec (.motUnpack a c) s = execMotUnpack a c s from rfl, execMotUnpack,
    withRanges_of_apart _ _ _ ha hc hapart, State.reading_of_firstUnknown _ hx]

theorem slipRx_stops {ch : Word} {c : RxChannel} (hc : s.rx[ch.toNat]? = some c)
    (harea : c.base.toNat + c.cap.toNat ≤ s.cfg.bufBytes) (hdrop : c.dropping = false)
    (hx : s.buf.FirstUnknown c.base.toNat c.len.toNat x) : exec (.slipRx slipEnd ch) s = .fault (.unknownRead x) := by
  have hlen : c.len ≠ 0 := fun h => absurd hx.pos (by rw [h]; decide)
  rw [exec_slipRx_end hc harea, rxEnd, if_neg (by simp [hdrop]), if_neg hlen, State.reading_of_firstUnknown _ hx]

/-! PKT.SER (rules R200 and R201), read by read. -/

section
variable {record dst cap : Word} {h : List Byte} {k : Kind} {n : Word}

theorem pktSer_header_stops (hrange : record.toNat + 8 ≤ s.cfg.bufBytes) (hx : s.buf.FirstUnknown record.toNat 8 x) :
    exec (.pktSer record dst cap) s = .fault (.unknownRead x) := by
  rw [show exec (.pktSer record dst cap) s = execPktSer record dst cap s from rfl, execPktSer, withRange_eq,
    if_pos hrange, State.reading_of_firstUnknown _ hx]

theorem serKind_len_stops {record dst cap : Nat} {t id : Byte} (hk : k.described = false) (hv : k ≠ .vend)
    (hrange : record + 12 ≤ s.cfg.bufBytes) (hx : s.buf.FirstUnknown (record + 8) 4 x) :
    serKind record dst cap t id k s = .fault (.unknownRead x) := by
  cases k with
  | fix _ | var => rw [serKind, withRange_eq, if_pos hrange, State.reading_of_firstUnknown _ hx]
  | vend => exact absurd rfl hv
  | obj | mrk | acc | ver => cases hk

theorem serWrite_stops {record dst cap plen readLen : Nat} {t id : Byte} (hcap : 4 + plen ≤ cap)
    (hx : s.buf.FirstUnknown record readLen x) :
    serWrite record dst cap t id k plen readLen s = .fault (.unknownRead x) := by
  rw [serWrite, if_neg (Nat.not_lt.2 hcap), State.reading_of_firstUnknown _ hx]

/-- A kind and LEN whose field checks PKT.SER passes. -/
def SerFits (k : Kind) (n : Nat) : Prop :=
  k.described = true ∨ k = .fix n ∨ (k = .var ∧ n % 2 = 0 ∧ n ≤ 131066)

/-- With its field checks passed, PKT.SER of any kind but VEND comes to the capacity check and the record's read. -/
theorem serChecked_eq_serWrite {record dst cap n : Nat} {t id : Byte} (hk : SerFits k n) :
    serChecked record dst cap t id k n s = serWrite record dst cap t id k (payloadLen k n) (hostSize k n) s := by
  rcases hk with hk | rfl | ⟨rfl, heven, hle⟩
  · rw [serChecked_of_described hk, payloadLen_of_described hk n, hostSize_of_described hk n]
  · exact serChecked_fix.trans (if_pos rfl)
  · exact serChecked_var.trans (if_neg (by omega))

/-- The record words that the header and an opaque kind's LEN are read from, as one range. -/
theorem holds_header_len (h8 : h.length = 8) (hh : s.buf.Holds record.toNat h)
    (hlen : s.buf.Holds (record.toNat + 8) (le32 n)) : s.buf.Holds record.toNat (h ++ le32 n) :=
  hh.append (h8.symm ▸ hlen)

/-- With the header and, for an opaque kind, LEN Known and its ranges checked, PKT.SER comes to the field checks. -/
theorem exec_pktSer_of_header (h8 : h.length = 8) (hh : s.buf.Holds record.toNat h)
    (hk : sendKind s.cfg (classify s.cfg (byteAt h 0)) = some k)
    (hn : k.described = false → k ≠ .vend → s.buf.Holds (record.toNat + 8) (le32 n))
    (hrec : record.toNat + hostSize k n.toNat ≤ s.cfg.bufBytes) (hdst : dst.toNat + cap.toNat ≤ s.cfg.bufBytes)
    (hapart : Apart record.toNat (hostSize k n.toNat) dst.toNat cap.toNat) :
    ∃ t id, exec (.pktSer record dst cap) s =
      serChecked record.toNat dst.toNat cap.toNat t id k n.toNat s := by
  by_cases ho : k.described = false ∧ k ≠ .vend
  · obtain ⟨hd, hv⟩ := ho
    have hword : wordAt (h ++ le32 n) 8 = n := by
      rw [wordAt_append_right _ _ (by omega), h8]
      exact u32le_le32 n
    refine ⟨_, _, exec_pktSer_checked (holds_header_len h8 hh (hn hd hv)) (by simp [h8]) ?_
      (fun _ _ => ⟨by simp [h8], by rw [hword]⟩) hrec hdst hapart⟩
    rwa [byteAt_append_left _ (by omega)]
  · exact ⟨_, _, exec_pktSer_checked hh (by omega) hk (fun hv hd => absurd ⟨hd, hv⟩ ho) hrec hdst hapart⟩

end

/-! PKT.PARSE (rule R205), read by read. -/

section
variable {src len record cap : Word} {t : Byte} {k : Kind}
  (hsrc : src.toNat + len.toNat ≤ s.cfg.bufBytes) (hrec : record.toNat + cap.toNat ≤ s.cfg.bufBytes)
  (hapart : Apart src.toNat len.toNat record.toNat cap.toNat) (h3 : 3 ≤ len.toNat)
include hsrc hrec hapart h3

theorem pktParse_type_stops (hx : s.buf.FirstUnknown (src.toNat + 2) 1 x) :
    exec (.pktParse src len record cap) s = .fault (.unknownRead x) := by
  rw [show exec (.pktParse src len record cap) s = execPktParse src len record cap s from rfl, execPktParse,
    withRanges_of_apart _ _ _ hsrc hrec hapart, if_neg (Nat.not_lt.2 h3), State.reading_of_firstUnknown _ hx]

theorem pktParse_wordCount_stops (ht : s.buf.lookup (src.toNat + 2) = some t)
    (hk : sendKind s.cfg (classify s.cfg t) = some .var) (hx : s.buf.FirstUnknown src.toNat 2 x) :
    exec (.pktParse src len record cap) s = .fault (.unknownRead x) := by
  rw [exec_pktParse hsrc hrec hapart h3 ht, hk]
  exact State.reading_of_firstUnknown _ hx

/-- The id and the payload are two reads, one after the other. -/
theorem pktParse_payload_stops {w : Half} (ht : s.buf.lookup (src.toNat + 2) = some t)
    (hk : sendKind s.cfg (classify s.cfg t) = some k)
    (hw : k = .var → 2 ≤ w.toNat ∧ s.buf.Holds src.toNat (le16 w))
    (hlen : 4 + payloadLen k (2 * w.toNat - 4) ≤ len.toNat)
    (hx : s.buf.FirstUnknown (src.toNat + 3) (1 + payloadLen k (2 * w.toNat - 4)) x) :
    exec (.pktParse src len record cap) s = .fault (.unknownRead x) := by
  rw [exec_pktParse hsrc hrec hapart h3 ht, hk]
  refine (parseKind_eq_parseSized hw).trans ?_
  rw [parseSized, if_neg (Nat.not_lt.2 hlen)]
  rcases hx.split with hid | ⟨⟨bs, hbs, hholds⟩, hpayload⟩
  · exact State.reading_of_firstUnknown _ hid
  · rw [State.reading_of_holds _ hbs hholds]
    exact State.reading_of_firstUnknown _ hpayload

end

end

/-- Settles O17: a command's answer is never a refusal, its fault an Unknown cell of BUF, and each MemRead stops it. -/
theorem commandStopsOnlyAtAnUnknownCell : Obligations.CommandStopsOnlyAtAnUnknownCell := by
  refine ⟨fun i s => ⟨exec_ne_refused, fun f hinv => exec_fault hinv⟩, fun s x => ⟨?range, ?motPack, ?motUnpack,
    ?slipRx, ?pktSer, ?pktParse⟩⟩
  case range =>
    intro a n hrange hx
    exact ⟨slipDec_stops hrange hx, fun c d hdst hapart => slipEnc_stops hrange hx hdst hapart, fun u =>
      ⟨fun hu hroom => hubRouteout_stops hrange hx hu hroom, fun hroom => hubRoutein_stops hrange hx hroom⟩⟩
  case motPack => exact fun a c ha hc hapart hx => motPack_stops ha hc hapart hx
  case motUnpack => exact fun a c ha hc hapart hx => motUnpack_stops ha hc hapart hx
  case slipRx => exact fun ch c hc harea hdrop hx => slipRx_stops hc harea hdrop hx
  case pktSer =>
    refine fun record dst cap hrange => ⟨fun hx => pktSer_header_stops hrange hx, fun h k h8 hh hk =>
      ⟨fun hv hd hrange12 hx => ?len, fun n hn hrec hdst hapart => ?fields⟩⟩
    case len =>
      refine (exec_pktSer_sendable hrange hh (by omega) hk).trans ?_
      exact serKind_len_stops hd hv hrange12 hx
    case fields =>
      obtain ⟨t, id, hexec⟩ := exec_pktSer_of_header h8 hh hk hn hrec hdst hapart
      refine ⟨fun hv hx => ?vendLen, fun hcap => ⟨fun hfits hx => ?record, fun hv hle hlen hx => ?vendData⟩⟩
      case vendLen =>
        subst hv
        exact hexec.trans (State.reading_of_firstUnknown _ hx)
      case record => exact hexec.trans ((serChecked_eq_serWrite hfits).trans (serWrite_stops hcap hx))
      case vendData =>
        subst hv
        refine hexec.trans ((State.reading_of_holds _ (length_le32 n) hlen).trans ?_)
        have hword : wordAt (le32 n) 0 = n := u32le_le32 n
        simp only [hword]
        rw [if_neg (Nat.not_lt.2 hle)]
        exact serWrite_stops hcap hx
  case pktParse =>
    refine fun src len record cap hsrc hrec hapart h3 =>
      ⟨fun hx => pktParse_type_stops hsrc hrec hapart h3 hx, fun t k ht hk => ⟨fun hv hx => ?_,
        fun w hw hlen hx => pktParse_payload_stops hsrc hrec hapart h3 ht hk hw hlen hx⟩⟩
    subst hv
    exact pktParse_wordCount_stops hsrc hrec hapart h3 ht hk hx

end Sys2Proof.Machine
end

section
/-! PROOFS. Single steps of the Engine, of a host and of a consumer: the register writes and reads of a port's bank, the
ignored accesses, BUF accesses, and the five writes and the wait of a command statement. -/

namespace Sys2Proof.Machine

section
variable {s : State} {p q : Nat} {rest : List AgentStep} {pt : Port}

/-! The Engine (10_state.md rule R36). -/

theorem step_of_decode_ok {i : Instr} (h : s.agenda = .engine p :: rest) (hpt : s.ports[p]? = some pt)
    (hpend : pt.pending = true) (hdec : decode pt.latch = .ok i) :
    step s = exec i { s with agenda := rest, served := p } := by
  rw [step_cons h, agentStep, engineStep, hpt]
  simp only [hpend, if_true, hdec]

/-- A pick of a port with nothing pending, or of no port, moves only the agenda. -/
theorem step_of_not_pending (h : s.agenda = .engine p :: rest)
    (hidle : s.ports[p]? = none ∨ ∃ pt, s.ports[p]? = some pt ∧ pt.pending = false) :
    step s = .next { s with agenda := rest } := by
  rw [step_cons h, agentStep, engineStep]
  rcases hidle with hnone | ⟨pt, hpt, hpend⟩
  · rw [hnone]
  · rw [hpt]
    simp [hpend]

/-- Settles O5: the branches of the Engine's step. -/
theorem engineStepRunsTheLatchedCommand : Obligations.EngineStepRunsTheLatchedCommand :=
  fun _ _ _ h => ⟨fun _ _ hpt hpend hdec => step_of_decode_ok h hpt hpend hdec, fun hidle => step_of_not_pending h hidle⟩

/-! The consumers (rule R44). -/

/-- Settles O26: a consumer's step looks at nothing but the head of its queue. -/
theorem consumersTakeTheHead : Obligations.ConsumersTakeTheHead := by
  refine ⟨fun s rest => ⟨fun h hq => ?_, fun h hq => ?_⟩, fun s rest e q h hq => ?_, fun s rest e q h hq => ?_⟩
  all_goals
    rw [step_cons h]
    simp only [agentStep, takeUpstream, takeDownstream, hq]

/-! A host and the registers of a port's bank (rules R32 to R37). -/

/-- A host's write of an aligned offset in a port's bank. -/
theorem step_regWrite_port {k : Nat} {v : Word} (hq : q < s.ports.length) (hp : p < 16) (hpt : s.ports[p]? = some pt)
    (hk : k < 0x40) (h4 : k % 4 = 0) (h : s.agenda = .host q (.regWrite (0x40 * p + k) 4 v) :: rest) :
    step s = .next { s with agenda := rest, ports := s.ports.set p (writePort k v pt) } := by
  rw [step_regWrite hq (by omega) (by omega) h, writeReg_port (s := { s with agenda := rest }) v hp hk hpt]

/-- A host's read of an aligned offset in a port's bank. -/
theorem step_regRead_port {k : Nat} (hq : q < s.ports.length) (hp : p < 16) (hpt : s.ports[p]? = some pt)
    (hk : k < 0x40) (h4 : k % 4 = 0) (h : s.agenda = .host q (.regRead (0x40 * p + k) 4) :: rest) :
    step s = .next { s with agenda := rest, hostReads := s.hostReads ++ [(q, readPort pt k)] } := by
  rw [step_regRead hq (by omega) (by omega) h, readReg_port hp hk hpt]

/-- STATUS as a number: CODE, PENDING and OVERRUN side by side (rule R35). -/
theorem statusWord_toNat (pt : Port) :
    (statusWord pt).toNat = (statusNumber pt.code).toNat + 256 * pt.pending.toNat + 512 * pt.overrun.toNat := by
  rw [statusWord, BitVec.toNat_setWidth_of_le (by decide), toNat_append_eq, toNat_append_eq, flagBit_toNat,
    flagBit_toNat]
  omega

section
variable (pt : Port)

theorem statusWord_code : (statusWord pt).extractLsb' 0 8 = statusNumber pt.code := by
  apply BitVec.eq_of_toNat_eq
  have := (statusNumber pt.code).isLt
  rw [toNat_extract_eq, statusWord_toNat]
  omega

/-- A bit of a word as a number. -/
theorem getLsbD_eq_decide (w : Word) (i : Nat) : w.getLsbD i = decide (w.toNat / 2 ^ i % 2 = 1) := by
  rw [BitVec.getLsbD, Nat.testBit_eq_decide_div_mod_eq]

theorem statusWord_pending : (statusWord pt).getLsbD 8 = pt.pending := by
  have := (statusNumber pt.code).isLt
  rw [getLsbD_eq_decide, statusWord_toNat]
  cases pt.pending <;> cases pt.overrun <;> simp <;> omega

theorem statusWord_overrun : (statusWord pt).getLsbD 9 = pt.overrun := by
  have := (statusNumber pt.code).isLt
  rw [getLsbD_eq_decide, statusWord_toNat]
  cases pt.pending <;> cases pt.overrun <;> simp <;> omega

theorem statusWord_above : (statusWord pt).extractLsb' 10 22 = 0 := by
  apply BitVec.eq_of_toNat_eq
  have := (statusNumber pt.code).isLt
  have := pt.pending.toNat_le
  have := pt.overrun.toNat_le
  rw [toNat_extract_eq, statusWord_toNat]
  show _ = 0
  omega

/-- A write to STATUS clears OVERRUN by bit 9 and does nothing else. -/
theorem writeStatus_eq (v : Word) : writeStatus v pt = { pt with overrun := pt.overrun && !v.getLsbD 9 } := by
  unfold writeStatus
  cases v.getLsbD 9 <;> simp

end

/-- Settles O20: the table of numbers is evaluated, and STATUS, RES0 and RES1 are registers of the port's bank. -/
theorem statusRegisterFields : Obligations.StatusRegisterFields := by
  refine ⟨rfl, fun s q p rest pt v hq hp hpt => ⟨fun h => ?_, fun h => ?_, fun h => ?_, fun h => ?_⟩⟩
  · exact step_regRead_port hq hp hpt (by decide) rfl h
  · exact step_regRead_port hq hp hpt (by decide) rfl h
  · exact ⟨statusWord pt, step_regRead_port hq hp hpt (by decide) rfl h, statusWord_code pt, statusWord_pending pt,
      statusWord_overrun pt, statusWord_above pt⟩
  · rw [← writeStatus_eq]
    exact step_regWrite_port hq hp hpt (by decide) rfl h

/-- Settles O21: the four ARG registers stand one after the other in the port's bank, and each is read where it is
written. -/
theorem argRegistersHoldWhatTheHostWrites : Obligations.ArgRegistersHoldWhatTheHostWrites := by
  intro s q p k rest pt v hq hp hk hpt h
  rw [Nat.add_assoc] at h ⊢
  have hlt : p < s.ports.length := (List.getElem?_eq_some_iff.1 hpt).1
  have hstep := step_regWrite_port hq hp hpt (k := 8 + 4 * k) (by omega) (by omega) h
  have hread (pt' : Port) : readReg { s with agenda := rest, ports := s.ports.set p pt' } (0x40 * p + (8 + 4 * k)) =
      readPort pt' (8 + 4 * k) := readReg_port hp (by omega) (List.getElem?_set_self hlt)
  refine ⟨_, hstep, ?_, ?_⟩
  · rcases (by omega : k = 0 ∨ k = 1 ∨ k = 2 ∨ k = 3) with rfl | rfl | rfl | rfl <;> rfl
  · rw [hread]
    rcases (by omega : k = 0 ∨ k = 1 ∨ k = 2 ∨ k = 3) with rfl | rfl | rfl | rfl <;> rfl

/-! Ignored writes and reserved reads (rules R37 and R53). -/

/-- A change that leaves every entry of a list as it is. -/
theorem modify_eq_self {α : Type} {l : List α} {i : Nat} {f : α → α} (h : ∀ x, l[i]? = some x → f x = x) :
    l.modify i f = l := by
  cases hi : l[i]? with
  | none => exact modify_of_none f hi
  | some x =>
    obtain ⟨hlt, hx⟩ := List.getElem?_eq_some_iff.1 hi
    rw [modify_eq_set f hi, h x hi, ← hx, List.set_getElem_self]

theorem writePort_of_le {r : Nat} (h : 0x18 ≤ r) (v : Word) (pt : Port) : writePort r v pt = pt := by
  unfold writePort
  iterate 6 rw [if_neg (by omega)]

theorem writeRx_of_le {r : Nat} (h : 8 ≤ r) (v : Word) (c : RxChannel) : writeRx r v c = c := by
  unfold writeRx
  iterate 2 rw [if_neg (by omega)]

/-- An aligned write that meets no writable register of a bank or group the block has changes nothing. -/
theorem writeReg_ignored {off : Nat} (s : State) (v : Word)
    (hport : ¬ (off < 0x400 ∧ off / 0x40 < s.ports.length ∧ off % 0x40 < 0x18))
    (hrx : ¬ (0x500 ≤ off ∧ off < 0x600 ∧ (off - 0x500) / 0x10 < s.rx.length ∧ off % 0x10 < 8)) :
    writeReg s off v = s := by
  by_cases hbank : off < 0x400
  · have hkeep : s.ports.modify (off / 0x40) (writePort (off % 0x40) v) = s.ports := by
      refine modify_eq_self fun pt hpt => writePort_of_le ?_ v pt
      have := (List.getElem?_eq_some_iff.1 hpt).1
      omega
    rw [writeReg, if_pos hbank, State.updatePort, hkeep]
  by_cases hgroup : 0x500 ≤ off ∧ off < 0x600
  · have hkeep : s.rx.modify ((off - 0x500) / 0x10) (writeRx (off % 0x10) v) = s.rx := by
      refine modify_eq_self fun c hc => writeRx_of_le ?_ v c
      have := (List.getElem?_eq_some_iff.1 hc).1
      omega
    rw [writeReg, if_neg hbank, if_neg (by omega), if_pos hgroup.2, State.updateRx, hkeep]
  · exact writeReg_readOnly s v (by omega)

theorem readPort_of_le {r : Nat} (h : 0x20 ≤ r) (pt : Port) : readPort pt r = 0 := by
  unfold readPort
  iterate 7 rw [if_neg (by omega)]

theorem readGlobal_of_le {off : Nat} (h : 0x428 ≤ off) (s : State) : readGlobal s off = 0 := by
  unfold readGlobal
  iterate 10 rw [if_neg (by omega)]

/-- A read below the global registers: a bank the block has, or 0. -/
theorem readReg_bank {off : Nat} (s : State) (h : off < 0x400) :
    readReg s off = (s.ports[off / 0x40]?.map fun pt => readPort pt (off % 0x40)).getD 0 := by
  rw [readReg, if_pos h]
  cases s.ports[off / 0x40]? <;> rfl

theorem readReg_group_of_le {off : Nat} {s : State} (hlo : 0x500 ≤ off) (hhi : off < 0x600)
    (h : s.rx.length ≤ (off - 0x500) / 0x10) : readReg s off = 0 := by
  rw [readReg, if_neg (by omega), if_neg (by omega), if_pos hhi, List.getElem?_eq_none h]

theorem readReg_between {off : Nat} (s : State) (hlo : 0x600 ≤ off) (hhi : off < 0x800) : readReg s off = 0 := by
  rw [readReg, if_neg (by omega), if_neg (by omega), if_neg (by omega), if_pos hhi]

/-- Settles O23: each ignored offset falls under a write that keeps its bank or group, each reserved one under a read
of 0. -/
theorem readOnlyAndReservedRegisters : Obligations.ReadOnlyAndReservedRegisters := by
  refine ⟨fun s q off rest v hq h4 hlt hport hrx h => ?write, fun s off h4 hlt h => ?reserved,
    fun s q off rest hq h4 hlt h => step_regRead hq h4 hlt h⟩
  case write => rw [step_regWrite hq h4 hlt h, writeReg_ignored { s with agenda := rest } v hport hrx]
  case reserved =>
    rcases h with ⟨hbank, habsent | hhigh⟩ | ⟨hlo, hhi⟩ | ⟨hlo, hhi, habsent⟩ | ⟨hlo, hhi⟩ | ⟨hlo, habsent⟩
    · rw [readReg_bank s hbank, List.getElem?_eq_none habsent]
      rfl
    · rw [readReg_bank s hbank]
      cases s.ports[off / 0x40]? with
      | none => rfl
      | some pt => exact readPort_of_le hhigh pt
    · rw [readReg_global s (by omega), readGlobal_of_le hlo]
    · exact readReg_group_of_le hlo hhi habsent
    · exact readReg_between s hlo hhi
    · have hoff : off = 0x800 + 8 * ((off - 0x800) / 8) + (off - 0x800) % 8 := by omega
      rw [hoff]
      exact readReg_roster_of_length_le (by omega) habsent

/-! BUF accesses (20_memory.md rules R71, R72 and R84; 60_exceptions.md rule R327). -/

theorem regAccessOk_eq_false {off width : Nat} (h : width ≠ 4 ∨ off % 4 ≠ 0) : regAccessOk off width = false := by
  rw [regAccessOk, Bool.eq_false_iff]
  simp only [ne_eq, Bool.and_eq_true, beq_iff_eq, decide_eq_true_eq]
  omega

theorem bufAccessOk_eq_false {off width : Nat} (h : s.cfg.bufBytes < off + width) : bufAccessOk s off width = false := by
  rw [bufAccessOk, Bool.eq_false_iff]
  simp only [inRange, ne_eq, Bool.and_eq_true, decide_eq_true_eq]
  omega

theorem bufAccessOk_eq_true {off width : Nat} (hw : width = 1 ∨ width = 2 ∨ width = 4)
    (h : off + width ≤ s.cfg.bufBytes) : bufAccessOk s off width = true := by
  rw [bufAccessOk]
  simp only [inRange, Bool.and_eq_true, Bool.or_eq_true, beq_iff_eq, decide_eq_true_eq]
  omega

theorem hostAccess_bufRead {off width : Nat} (hw : width = 1 ∨ width = 2 ∨ width = 4)
    (h : off + width ≤ s.cfg.bufBytes) :
    hostAccess p (.bufRead off width) s = s.reading off width fun bs => .next (s.noteRead p (hostValue bs)) :=
  if_pos (bufAccessOk_eq_true hw h)

theorem hostAccess_bufWrite {off width : Nat} (v : Word) (hw : width = 1 ∨ width = 2 ∨ width = 4)
    (h : off + width ≤ s.cfg.bufBytes) :
    hostAccess p (.bufWrite off width v) s = .next (s.store off (hostBytes width v)) :=
  if_pos (bufAccessOk_eq_true hw h)

/-- Settles O18: the two access checks fail, or the read meets its first Unknown cell. -/
theorem hostAccessesThatStop : Obligations.HostAccessesThatStop := by
  intro s p rest off width v hp
  refine ⟨fun hbad => ⟨fun h => ?_, fun h => ?_⟩, fun hpast => ⟨fun h => ?_, fun h => ?_⟩,
    fun hw hin k hk hnone hknown h => ?_⟩
  · rw [step_host h hp]
    exact if_neg (Bool.eq_false_iff.1 (regAccessOk_eq_false hbad))
  · rw [step_host h hp]
    exact if_neg (Bool.eq_false_iff.1 (regAccessOk_eq_false hbad))
  · rw [step_host h hp]
    exact if_neg (Bool.eq_false_iff.1 (bufAccessOk_eq_false (s := { s with agenda := rest }) hpast))
  · rw [step_host h hp]
    exact if_neg (Bool.eq_false_iff.1 (bufAccessOk_eq_false (s := { s with agenda := rest }) hpast))
  · have hfirst : s.buf.FirstUnknown off width (off + k) :=
      ⟨Nat.le_add_right _ _, by omega, hnone, fun y hy hyk => by
        have := hknown (y - off) (by omega)
        rwa [Nat.add_sub_of_le hy] at this⟩
    rw [step_host h hp, hostAccess_bufRead (s := { s with agenda := rest }) hw hin]
    exact State.reading_of_firstUnknown (s := { s with agenda := rest }) _ hfirst

theorem length_hostBytes {width : Nat} (hw : width ≤ 4) (v : Word) : (hostBytes width v).length = width :=
  List.length_take_of_le hw

/-- Byte `j` of what a host write stores is bits `8j+7` to `8j` of the value. -/
theorem getElem?_hostBytes {width j : Nat} (hw : width ≤ 4) (hj : j < width) (v : Word) :
    (hostBytes width v)[j]? = some (v.extractLsb' (8 * j) 8) := by
  rw [hostBytes, List.getElem?_take_of_lt hj]
  rcases (by omega : j = 0 ∨ j = 1 ∨ j = 2 ∨ j = 3) with rfl | rfl | rfl | rfl <;> rfl

/-- What a host write stores, read back with the same width: the value's low bytes. -/
theorem hostValue_hostBytes {width : Nat} (hw : width = 1 ∨ width = 2 ∨ width = 4) (v : Word) :
    hostValue (hostBytes width v) = BitVec.ofNat 32 (v.toNat % 2 ^ (8 * width)) := by
  have hbyte (j : Nat) : byteAt (hostBytes width v) j = if j < width then v.extractLsb' (8 * j) 8 else 0 := by
    split
    case isTrue hj => exact byteAt_of_getElem? (getElem?_hostBytes (by omega) hj v)
    case isFalse hj =>
      rw [byteAt, List.getD_eq_getElem?_getD, List.getElem?_eq_none (by rw [length_hostBytes (by omega)]; omega)]
      rfl
  apply BitVec.eq_of_toNat_eq
  have hv := v.isLt
  rw [hostValue, wordAt_toNat, hbyte, hbyte, hbyte, hbyte, BitVec.toNat_ofNat]
  rcases hw with rfl | rfl | rfl
  all_goals
    simp
    omega

/-- Settles O25: the bytes stored are the value's low bytes, and a read of the same width finds them all Known. -/
theorem hostBufWriteIsLittleEndian : Obligations.HostBufWriteIsLittleEndian := by
  intro s q off width rest v hq hw hin h
  have hlen := length_hostBytes (width := width) (by omega) v
  have hstores := Memory.write_stores s.buf off (hostBytes width v)
  obtain ⟨hholds, hothers⟩ := hstores
  rw [hlen] at hothers
  refine ⟨{ s with agenda := rest, buf := s.buf.write off (hostBytes width v) }, ?step, rfl,
    fun j hj => hholds j _ (getElem?_hostBytes (by omega) hj v), hothers, ?readBack⟩
  case step =>
    rw [step_host h hq, hostAccess_bufWrite (s := { s with agenda := rest }) v hw hin]
    rfl
  case readBack =>
    rw [agentStep, hostStep_of_lt _ (by exact hq), hostAccess_bufRead hw (by exact hin),
      State.reading_of_holds _ hlen (by exact hholds), hostValue_hostBytes hw]
    rfl

/-! A command statement (30_encoding.md rules R110 and R111). -/

/-- A step of the program that writes a register of a port's bank. -/
theorem step_program_regWrite {k : Nat} {v : Word} {prog : List ProgramStep} (hp : p < 16)
    (hpt : s.ports[p]? = some pt) (hk : k < 0x40) (h4 : k % 4 = 0) (hagenda : s.agenda = .program :: rest)
    (hprog : s.program = .access p (.regWrite (0x40 * p + k) 4 v) :: prog) :
    step s = .next { s with agenda := rest, program := prog, ports := s.ports.set p (writePort k v pt) } := by
  have hlt : p < s.ports.length := (List.getElem?_eq_some_iff.1 hpt).1
  rw [step_cons hagenda, agentStep, programStep_access (s := { s with agenda := rest }) hprog,
    hostStep_of_lt _ (by exact hlt), hostAccess_regWrite _ _ _ _ (by omega) (by omega),
    writeReg_port (s := { s with agenda := rest, program := prog }) v hp hk hpt]

/-- A `wait` reads STATUS, and goes on exactly when nothing is pending. -/
theorem step_program_wait {prog : List ProgramStep} (hp : p < 16) (hpt : s.ports[p]? = some pt)
    (hagenda : s.agenda = .program :: rest) (hprog : s.program = .wait p :: prog) :
    step s = .next { s with
      agenda := rest
      program := if pt.pending then .wait p :: prog else prog
      hostReads := s.hostReads ++ [(p, readReg s (0x40 * p + 4))] } := by
  have hlt : p < s.ports.length := (List.getElem?_eq_some_iff.1 hpt).1
  have hpending : statusPending p { s with agenda := rest } = pt.pending := by
    rw [statusPending, readReg_port (s := { s with agenda := rest }) hp (by decide) hpt]
    exact statusWord_pending pt
  rw [step_cons hagenda, agentStep, programStep_wait (s := { s with agenda := rest }) hprog, hpending,
    hostStep_of_lt _ (by exact hlt), hostAccess_regRead _ _ _ (by omega) (by omega)]
  rfl

/-- A write to CMD with nothing pending latches the word and the ARG registers (rule R33). -/
theorem writePort_cmd (w : Word) (hpend : pt.pending = false) :
    writePort 0x00 w pt = { pt with latch := ⟨w, pt.arg0, pt.arg1, pt.arg2, pt.arg3⟩, pending := true } := by
  rw [writePort, if_pos rfl, writeCmd, if_neg (by simp [hpend])]

/-- Settles O27: five register writes in a row to one bank, of which the last, to CMD, latches what the first four left;
and one step of the wait. -/
theorem statementWritesLatchTheCommand : Obligations.StatementWritesLatchTheCommand := by
  intro s p rest ag pt hp hpt
  refine ⟨fun op args hpend hprog hagenda => ?issue, fun hprog hagenda => step_program_wait hp hpt hagenda hprog⟩
  have hlt : p < s.ports.length := (List.getElem?_eq_some_iff.1 hpt).1
  have hself (pt' : Port) : (s.ports.set p pt')[p]? = some pt' := List.getElem?_set_self hlt
  refine .step (step_program_regWrite (k := 0x08) hp hpt (by decide) rfl hagenda hprog) ?_
  refine .step (step_program_regWrite (k := 0x0C) hp (hself _) (by decide) rfl rfl rfl) ?_
  simp only [List.set_set]
  refine .step (step_program_regWrite (k := 0x10) hp (hself _) (by decide) rfl rfl rfl) ?_
  simp only [List.set_set]
  refine .step (step_program_regWrite (k := 0x14) hp (hself _) (by decide) rfl rfl rfl) ?_
  simp only [List.set_set]
  refine .step (step_program_regWrite (k := 0x00) hp (hself _) (by decide) rfl rfl rfl) ?_
  rw [writePort_cmd _ (by exact hpend), List.set_set]
  exact .refl _

end

end Sys2Proof.Machine
end

section
/-! PROOFS. Commands that end without looking at packets: the operand range and overlap checks, the channel commands, the
hub commands, the conversions and the control commands. -/

namespace Sys2Proof.Machine

section
variable {s : State}

/-! Operand ranges (20_memory.md rules R73 and R74). -/

theorem withRange_of_lt {k a n : Nat} (rest : Result) (h : s.cfg.bufBytes < a + n) :
    withRange s k a n rest = .next (s.complete .badAddress (wordOf k) 0) := by
  rw [withRange_eq, if_neg (Nat.not_le.2 h)]

theorem withRanges_of_source {ka a n kb b m : Nat} (rest : Result) (h : s.cfg.bufBytes < a + n) :
    withRanges s ka a n kb b m rest = .next (s.complete .badAddress (wordOf ka) 0) := by
  rw [withRanges_eq, if_neg (Nat.not_le.2 h)]

theorem withRanges_of_destination {ka a n kb b m : Nat} (rest : Result) (ha : a + n ≤ s.cfg.bufBytes)
    (h : s.cfg.bufBytes < b + m) :
    withRanges s ka a n kb b m rest = .next (s.complete .badAddress (wordOf kb) 0) := by
  rw [withRanges_eq, if_pos ha, if_neg (Nat.not_le.2 h)]

theorem withRanges_of_overlap {ka a n kb b m : Nat} (rest : Result) (ha : a + n ≤ s.cfg.bufBytes)
    (hb : b + m ≤ s.cfg.bufBytes) (h : ¬ Apart a n b m) :
    withRanges s ka a n kb b m rest = .next (s.complete .overlap 0 0) := by
  rw [withRanges_eq, if_pos ha, if_pos hb, if_pos ((overlaps_iff a n b m).2 h)]

/-- Settles O36: each of these commands begins with its range checks, the source's first. -/
theorem rangeOutsideBufIsBadAddress : Obligations.RangeOutsideBufIsBadAddress :=
  fun _ _ _ _ _ _ =>
    ⟨fun h => ⟨State.completesOnly_of_exec (withRange_of_lt _ h), State.completesOnly_of_exec (withRanges_of_source _ h),
      State.completesOnly_of_exec (withRanges_of_source _ h), State.completesOnly_of_exec (withRange_of_lt _ h),
      State.completesOnly_of_exec (withRange_of_lt _ h)⟩,
    fun ha h => ⟨State.completesOnly_of_exec (withRanges_of_destination _ ha h),
      State.completesOnly_of_exec (withRanges_of_destination _ ha h)⟩,
    fun h => State.completesOnly_of_exec (withRange_of_lt _ h),
    fun h => State.completesOnly_of_exec (withRanges_of_source _ h),
    fun ha h => State.completesOnly_of_exec (withRanges_of_destination _ ha h),
    fun h => State.completesOnly_of_exec (withRanges_of_source _ h),
    fun ha h => State.completesOnly_of_exec (withRanges_of_destination _ ha h)⟩

/-- Settles O37: with both ranges in BUF, the overlap test comes before everything else of the command. -/
theorem overlappingRangesAreRefused : Obligations.OverlappingRangesAreRefused :=
  fun _ _ _ _ _ =>
    ⟨fun ha hb h => ⟨State.completesOnly_of_exec (withRanges_of_overlap _ ha hb h),
      State.completesOnly_of_exec (withRanges_of_overlap _ ha hb h)⟩,
    fun ha hb h => State.completesOnly_of_exec (withRanges_of_overlap _ ha hb h),
    fun ha hb h => State.completesOnly_of_exec (withRanges_of_overlap _ ha hb h)⟩

/-! Deframer channels (40_slip.md section 4). -/

section
variable {ch : Word} {c : RxChannel}

theorem exec_slipRxclr (hc : s.rx[ch.toNat]? = some c) :
    exec (.slipRxclr ch) s = .next
      ({ s with rx := s.rx.set ch.toNat { c with len := 0, dropping := false } }.complete .ok 0 0) := by
  rw [show exec (.slipRxclr ch) s = execSlipRxclr ch s from rfl, execSlipRxclr, hc]
  simp only [State.updateRx_eq_set hc]
  rfl

theorem exec_slipRxclr_of_none (h : s.rx[ch.toNat]? = none) :
    exec (.slipRxclr ch) s = .next (s.complete .badChannel ch 0) := by
  rw [show exec (.slipRxclr ch) s = execSlipRxclr ch s from rfl, execSlipRxclr, h]
  rfl

theorem exec_slipRx_of_none (byte : Byte) (h : s.rx[ch.toNat]? = none) :
    exec (.slipRx byte ch) s = .next (s.complete .badChannel ch 0) := by
  rw [show exec (.slipRx byte ch) s = execSlipRx byte ch s from rfl, execSlipRx, h]
  rfl

theorem exec_slipRx_of_area (byte : Byte) (hc : s.rx[ch.toNat]? = some c)
    (harea : s.cfg.bufBytes < c.base.toNat + c.cap.toNat) :
    exec (.slipRx byte ch) s = .next (s.complete .badAddress (wordOf (0x100 + ch.toNat)) 0) := by
  have hrange : ¬ inRange s c.base.toNat c.cap.toNat = true := by
    simpa [inRange] using harea
  rw [show exec (.slipRx byte ch) s = execSlipRx byte ch s from rfl, execSlipRx, hc]
  exact if_neg hrange

/-- Settles O35: the channel is looked up first, and SLIP.RX then checks its area. -/
theorem slipRxclrAndChannelChecks : Obligations.SlipRxclrAndChannelChecks := by
  refine fun s byte ch => ⟨fun c hc => ⟨?clear, fun harea => State.completesOnly_of_exec (exec_slipRx_of_area byte hc harea)⟩,
    fun habsent => ?absent⟩
  case clear => exact ⟨_, exec_slipRxclr hc, State.complete_completes rfl rfl _ _ _, rfl⟩
  case absent =>
    have hnone := List.getElem?_eq_none habsent
    exact ⟨State.completesOnly_of_exec (exec_slipRxclr_of_none hnone),
      State.completesOnly_of_exec (exec_slipRx_of_none byte hnone)⟩

/-- What END answers, when it answers: on a channel that is dropping or holds a frame a cleared channel, and on an empty
one that is not dropping no change (rules R154 and R155). -/
theorem rxEnd_rx {t : State} (hc : s.rx[ch.toNat]? = some c) (h : rxEnd ch.toNat c s = .next t) :
    t.rx = s.rx.set ch.toNat { c with len := 0, dropping := false } := by
  by_cases hdrop : c.dropping = true
  · rw [rxEnd_of_dropping hc hdrop] at h
    cases h
    rfl
  have hkept : ({ c with len := 0 } : RxChannel) = { c with len := 0, dropping := false } := by
    rw [Bool.eq_false_iff.2 hdrop]
  by_cases hempty : c.len = 0
  · rw [rxEnd_of_empty hdrop hempty] at h
    cases h
    obtain ⟨hlt, hget⟩ := List.getElem?_eq_some_iff.1 hc
    rw [← hkept, ← hempty, ← hget]
    exact (List.set_getElem_self hlt).symm
  · rw [← hkept]
    have hread := h
    rw [rxEnd, if_neg hdrop, if_neg hempty] at hread
    obtain ⟨body, hbody, -⟩ := State.reading_next hread
    obtain ⟨hlen, hholds⟩ := Memory.holds_of_read hbody
    obtain ⟨hok, herr⟩ := rxEnd_of_body hc hdrop hempty hlen hholds
    cases hdec : slipDecode body with
    | ok out =>
      rw [hok out hdec] at h
      cases h
      rfl
    | error e =>
      obtain ⟨kind, k⟩ := e
      rw [herr kind k hdec] at h
      cases h
      rfl

/-- Settles O34: END is `rxEnd` on a channel whose area lies in BUF. -/
theorem endResynchronisesTheChannel : Obligations.EndResynchronisesTheChannel := by
  intro s t ch c hc harea h
  exact rxEnd_rx hc ((exec_slipRx_end hc harea).symm.trans h)

end

/-! The hub (43_hub.md). -/

section
variable {u : Uuid}

/-- HUB.ATTACH, branch by branch. -/
theorem exec_hubAttach (u : Uuid) (s : State) :
    exec (.hubAttach u) s = .next
      (if u ∈ s.roster then s.complete .ok 0 s.rosterLen
      else if s.roster.length = s.cfg.rosterCap then
        (s.count countRosterReject).complete .rosterFull s.rosterLen 0
      else if s.subscribed = true ∧ s.upQ.length = s.cfg.upqDepth then s
      else
        ({ s with roster := s.roster ++ [u] } : State).notify.complete .ok 1 (wordOf (s.roster.length + 1))) := by
  rw [show exec (.hubAttach u) s = execHubAttach u s from rfl, execHubAttach]
  simp only [List.contains_iff_mem, Bool.and_eq_true, State.upFull_iff]
  split_ifs
  · rfl
  · rfl
  · rfl
  · rw [State.rosterLen, List.length_append, List.length_singleton]
    rfl

/-- HUB.DETACH, branch by branch. -/
theorem exec_hubDetach (u : Uuid) (s : State) :
    exec (.hubDetach u) s = .next
      (if u ∉ s.roster then s.complete .ok 0 s.rosterLen
      else if s.subscribed = true ∧ s.upQ.length = s.cfg.upqDepth then s
      else
        ({ s with roster := s.roster.filter (· ≠ u) } : State).notify.complete .ok 1
          (wordOf (s.roster.filter (· ≠ u)).length)) := by
  rw [show exec (.hubDetach u) s = execHubDetach u s from rfl, execHubDetach]
  simp only [Bool.not_eq_true', ← Bool.not_eq_true, List.contains_iff_mem, Bool.and_eq_true, State.upFull_iff]
  split_ifs <;> rfl

/-- A changed roster with its snapshot, as one record. -/
theorem State.notify_eq (s : State) (roster : List Uuid) :
    ({ s with roster := roster } : State).notify =
      { s with roster := roster, upQ := if s.subscribed then s.upQ ++ [.devicesSnapshot roster] else s.upQ } := by
  unfold State.notify
  split_ifs <;> rfl

/-- Settles O55: the four branches of the command. -/
theorem hubAttachEffects : Obligations.HubAttachEffects := by
  intro s u
  refine ⟨_, exec_hubAttach u s, ?_⟩
  by_cases hmem : u ∈ s.roster
  · simp only [if_pos hmem]
    exact ⟨State.complete_completes rfl rfl _ _ _, rfl⟩
  by_cases hcap : s.roster.length = s.cfg.rosterCap
  · simp only [if_neg hmem, if_pos hcap]
    exact ⟨State.complete_completes rfl rfl _ _ _, rfl⟩
  by_cases hfull : s.subscribed = true ∧ s.upQ.length = s.cfg.upqDepth
  · simp only [if_neg hmem, if_neg hcap, if_pos hfull]
  · simp only [if_neg hmem, if_neg hcap, if_neg hfull, State.notify_eq]
    exact ⟨State.complete_completes rfl rfl _ _ _, rfl⟩

/-- Settles O56: the three branches of the command; in a roster without duplicates the filter erases one entry. -/
theorem hubDetachEffects : Obligations.HubDetachEffects := by
  intro s u hnodup
  refine ⟨_, exec_hubDetach u s, ?_⟩
  by_cases hmem : u ∉ s.roster
  · simp only [if_pos hmem]
    exact ⟨State.complete_completes rfl rfl _ _ _, rfl⟩
  by_cases hfull : s.subscribed = true ∧ s.upQ.length = s.cfg.upqDepth
  · simp only [if_neg hmem, if_pos hfull]
  · have herase : s.roster.filter (fun x => decide (x ≠ u)) = s.roster.erase u := by
      rw [hnodup.erase_eq_filter]
      exact List.filter_congr fun x _ => by by_cases hx : x = u <;> simp [bne, hx]
    simp only [if_neg hmem, if_neg hfull, herase, State.notify_eq]
    rw [List.length_erase_of_mem (not_not.1 hmem)]
    exact ⟨State.complete_completes rfl rfl _ _ _, rfl⟩

end

/-! The routing commands (rules R283 to R286). -/

section
variable {u : Uuid} {off len : Word} (hrange : off.toNat + len.toNat ≤ s.cfg.bufBytes)
include hrange

/-- HUB.ROUTEOUT of a packet in BUF, branch by branch. -/
theorem exec_hubRouteout :
    exec (.hubRouteout u off len) s =
      if u ∉ s.roster then (s.count countRouteDrop).finish 0 0
      else if s.downQ.length = s.cfg.downqDepth then .next s
      else s.reading off.toNat len.toNat fun bytes => (s.pushDown ⟨u, bytes⟩).finish 1 0 := by
  rw [show exec (.hubRouteout u off len) s = execHubRouteout u off len s from rfl, execHubRouteout, withRange_eq,
    if_pos hrange]
  simp only [Bool.not_eq_true', ← Bool.not_eq_true, List.contains_iff_mem, State.downFull_iff]
  rfl

/-- HUB.ROUTEIN of a packet in BUF, branch by branch. -/
theorem exec_hubRoutein :
    exec (.hubRoutein u off len) s =
      if s.upQ.length = s.cfg.upqDepth then .next s
      else s.reading off.toNat len.toNat fun bytes => (s.pushUp (.devicePacket u bytes)).finish 1 0 := by
  rw [show exec (.hubRoutein u off len) s = execHubRoutein u off len s from rfl, execHubRoutein, withRange_eq,
    if_pos hrange]
  simp only [State.upFull_iff]
  rfl

end

/-- Settles O57: the branches of the two commands. -/
theorem hubRoutingEffects : Obligations.HubRoutingEffects := by
  intro s u off len hrange
  rw [exec_hubRouteout hrange, exec_hubRoutein hrange]
  refine ⟨fun habsent => ?_, fun hmem hfull => ?_, fun hfull => if_pos hfull, fun bytes hlen hholds =>
    ⟨fun hmem hroom => ?_, fun hroom => ?_⟩⟩
  · exact ⟨_, if_pos habsent, State.complete_completes rfl rfl _ _ _, rfl⟩
  · rw [if_neg (not_not.2 hmem), if_pos hfull]
  · rw [if_neg (not_not.2 hmem), if_neg hroom, State.reading_of_holds _ hlen hholds]
    exact ⟨_, rfl, State.complete_completes rfl rfl _ _ _, rfl⟩
  · rw [if_neg hroom, State.reading_of_holds _ hlen hholds]
    exact ⟨_, rfl, State.complete_completes rfl rfl _ _ _, rfl⟩

/-! The subscription commands (rules R287 to R291). -/

theorem exec_hubRequest (s : State) :
    exec .hubRequest s =
      .next (if s.upQ.length = s.cfg.upqDepth then s else s.pushSnapshot.complete .ok s.rosterLen 0) := by
  rw [show exec .hubRequest s = execHubRequest s from rfl, execHubRequest]
  simp only [State.upFull_iff]
  split_ifs <;> rfl

theorem exec_hubSub (s : State) :
    exec .hubSub s =
      .next (if s.upQ.length = s.cfg.upqDepth then s
        else ({ s with subscribed := true } : State).pushSnapshot.complete .ok s.rosterLen 0) := by
  rw [show exec .hubSub s = execHubSub s from rfl, execHubSub]
  simp only [State.upFull_iff]
  split_ifs <;> rfl

/-- Settles O58: both commands turn on whether UpQ is full. -/
theorem hubSnapshotCommands : Obligations.HubSnapshotCommands := by
  intro s
  rw [exec_hubRequest, exec_hubSub]
  by_cases hfull : s.upQ.length = s.cfg.upqDepth
  · rw [if_pos hfull, if_pos hfull, if_pos hfull]
    exact ⟨rfl, rfl⟩
  · rw [if_neg hfull, if_neg hfull, if_neg hfull]
    exact ⟨⟨_, rfl, State.complete_completes rfl rfl _ _ _, rfl⟩, ⟨_, rfl, State.complete_completes rfl rfl _ _ _, rfl⟩⟩

/-- HUB.ATTACH of a new uuid while unsubscribed, with room in the roster, pushes nothing. -/
theorem hubAttach_unsubscribed {u : Uuid} (hnew : u ∉ s.roster) (hcap : s.roster.length ≠ s.cfg.rosterCap)
    (hsub : s.subscribed = false) :
    ∃ t, exec (.hubAttach u) s = .next t ∧ t.roster = s.roster ++ [u] ∧ t.subscribed = false ∧ t.upQ = s.upQ ∧
      t.downQ = s.downQ ∧ t.cfg = s.cfg := by
  refine ⟨_, exec_hubAttach u s, ?_⟩
  rw [if_neg hnew, if_neg hcap, if_neg (by simp [hsub]), State.notify_eq]
  simp [hsub]

/-- HUB.DETACH of a present uuid while subscribed, with room in UpQ, pushes one snapshot of the roster that is left. -/
theorem hubDetach_subscribed {u : Uuid} (hmem : u ∈ s.roster) (hroom : s.upQ.length ≠ s.cfg.upqDepth)
    (hsub : s.subscribed = true) :
    ∃ t, exec (.hubDetach u) s = .next t ∧ t.roster = s.roster.filter (· ≠ u) ∧
      t.upQ = s.upQ ++ [.devicesSnapshot (s.roster.filter (· ≠ u))] ∧ t.downQ = s.downQ ∧ t.cfg = s.cfg := by
  refine ⟨_, exec_hubDetach u s, ?_⟩
  rw [if_neg (not_not.2 hmem), if_neg (fun h => hroom h.2), State.notify_eq]
  simp [hsub]

/-- Settles O59: each of the five commands takes the branch that the state the one before it left asks for. -/
theorem hubSubscriptionLaw : Obligations.HubSubscriptionLaw := by
  intro s p q off len hpq hroster hsub hcap hroom hrange _
  obtain ⟨s1, h1, hroster1, hsub1, hup1, hdown1, hcfg1⟩ :=
    hubAttach_unsubscribed (s := s) (u := p) (by simp [hroster]) (by rw [hroster, List.length_nil]; omega) hsub
  rw [hroster, List.nil_append] at hroster1
  obtain ⟨s2, h2, hroster2, hsub2, hup2, hdown2, hcfg2⟩ :=
    hubAttach_unsubscribed (s := s1) (u := q) (by simp [hroster1, hpq.symm])
      (by rw [hroster1, hcfg1, List.length_singleton]; omega) hsub1
  rw [hroster1] at hroster2
  have hroom2 : s2.upQ.length ≠ s2.cfg.upqDepth := by
    rw [hup2, hup1, hcfg2, hcfg1]
    omega
  have h3 := exec_hubSub s2
  rw [if_neg hroom2] at h3
  generalize hs3 : ({ s2 with subscribed := true } : State).pushSnapshot.complete .ok s2.rosterLen 0 = s3 at h3
  have hup3 : s3.upQ = s.upQ ++ [.devicesSnapshot [p, q]] := by
    rw [← hs3, ← hup1, ← hup2]
    exact congrArg (fun roster => s2.upQ ++ [UpEntry.devicesSnapshot roster]) hroster2
  obtain ⟨hroster3, hsub3, hdown3, hcfg3⟩ :
      s3.roster = [p, q] ∧ s3.subscribed = true ∧ s3.downQ = s.downQ ∧ s3.cfg = s.cfg := by
    rw [← hs3, ← hdown1, ← hdown2, ← hcfg1, ← hcfg2]
    exact ⟨hroster2, rfl, rfl, rfl⟩
  obtain ⟨s4, h4, hroster4, hup4, hdown4, hcfg4⟩ :=
    hubDetach_subscribed (s := s3) (u := p) (by simp [hroster3])
      (by rw [hup3, hcfg3, List.length_append, List.length_singleton]; omega) hsub3
  have hleft : [p, q].filter (· ≠ p) = [q] := by simp [hpq.symm]
  rw [hroster3, hleft] at hroster4 hup4
  have h5 : exec (.hubRouteout p off len) s4 = .next ((s4.count countRouteDrop).complete .ok 0 0) := by
    rw [exec_hubRouteout (by rw [hcfg4, hcfg3]; exact hrange), if_pos (by simp [hroster4, hpq])]
    rfl
  refine ⟨s1, s2, s3, s4, _, h1, h2, h3, h4, h5, hup1, hup2.trans hup1, hup3, ?_, rfl, hdown4.trans hdown3,
    State.complete_completes rfl rfl _ _ _⟩
  rw [hup4, hup3, List.append_assoc]
  rfl

/-! Conversions and commands without operands (42_convert.md, 44_control.md). -/

/-- A saturated sample is an int16 (rule R242). -/
theorem satTrunc16_bounds (x : Flt) : -32768 ≤ satTrunc16 x ∧ satTrunc16 x ≤ 32767 := by
  cases x with
  | nan => decide
  | inf neg => cases neg <;> decide
  | fin neg m e =>
    unfold satTrunc16
    dsimp only
    split_ifs <;> omega

/-- The int16 of a number in its range, sign-extended, is the number as a word. -/
theorem signExtend_ofInt {i : Int} (h : -32768 ≤ i ∧ i ≤ 32767) :
    (BitVec.ofInt 16 i).signExtend 32 = BitVec.ofInt 32 i := by
  apply BitVec.eq_of_toInt_eq
  rw [BitVec.toInt_signExtend_of_le (by decide), BitVec.toInt_ofInt, BitVec.toInt_ofInt,
    Int.bmod_eq_of_le (by omega) (by omega), Int.bmod_eq_of_le (by omega) (by omega)]

/-- Settles O51: each command completes with its function's value, and the encodings to the wire are int16 numbers. -/
theorem conversionCommandsComplete : Obligations.ConversionCommandsComplete := by
  intro s x r
  have haccel : -32768 ≤ accelToWire x ∧ accelToWire x ≤ 32767 := satTrunc16_bounds _
  have hgyro : -32768 ≤ gyroToWire x ∧ gyroToWire x ≤ 32767 := satTrunc16_bounds _
  refine ⟨⟨haccel.1, haccel.2, ?_⟩, ⟨hgyro.1, hgyro.2, ?_⟩, State.completesOnly_of_exec rfl,
    State.completesOnly_of_exec rfl⟩
  · rw [signExtend_ofInt haccel]
    exact State.completesOnly_of_exec rfl
  · rw [signExtend_ofInt hgyro]
    exact State.completesOnly_of_exec rfl

/-- Settles O60: none of the three commands has a check. -/
theorem commandsWithoutOperands : Obligations.CommandsWithoutOperands := fun _ =>
  ⟨State.completesOnly_of_exec rfl, ⟨_, rfl, State.complete_completes rfl rfl _ _ _, rfl⟩,
    ⟨_, rfl, State.complete_completes rfl rfl _ _ _, rfl⟩⟩

end

end Sys2Proof.Machine
end

section
/-! PROOFS. Payloads and host records of 41_packet.md: the pieces that survive packing and unpacking, the pieces of a byte
sequence put together again, and the round trip of every kind. -/

namespace Sys2Proof.Machine

/-! MotData and marker pairs (rules R189 and R210). -/

/-- A 12-bit field from its low byte and its high nibble. -/
theorem nibble_append_low (x : BitVec 12) :
    ((x.extractLsb' 8 4).setWidth 8).extractLsb' 0 4 ++ x.extractLsb' 0 8 = x := by
  apply BitVec.eq_of_toNat_eq
  have := x.isLt
  rw [toNat_append_eq, toNat_extract_eq, BitVec.toNat_setWidth, toNat_extract_eq, toNat_extract_eq]
  omega

theorem extract_append_high (x y : BitVec 4) : (x ++ y).extractLsb' 4 4 = x := by
  apply BitVec.eq_of_toNat_eq
  have := x.isLt
  have := y.isLt
  rw [toNat_extract_eq, toNat_append_eq]
  omega

theorem extract_append_low (x y : BitVec 4) : (x ++ y).extractLsb' 0 4 = y := by
  apply BitVec.eq_of_toNat_eq
  have := y.isLt
  rw [toNat_extract_eq, toNat_append_eq]
  omega

theorem extract_setWidth_seven (x : BitVec 7) : (x.setWidth 8).extractLsb' 0 7 = x := by
  apply BitVec.eq_of_toNat_eq
  have := x.isLt
  rw [toNat_extract_eq, BitVec.toNat_setWidth]
  omega

/-- Unpacking undoes packing, field by field. -/
theorem motUnpack_motPack (h : MotData) : motUnpack (motPack h) 0 = h := by
  have harea : u16le (h.area.extractLsb' 0 8) (h.area.extractLsb' 8 8) = h.area := u16le_le16 h.area
  simp only [motUnpack, halfAt, byteAt, motPack, List.getD_cons_zero, List.getD_cons_succ, Nat.zero_add, harea,
    nibble_append_low, extract_append_high, extract_append_low, extract_setWidth_seven]

/-- Reading a host record undoes writing it. -/
theorem motOfRecord_motRecord (h : MotData) : motOfRecord (motRecord h) 0 = h := by
  have hwords : motRecord h = [h.area.setWidth 32, h.cx.setWidth 32, h.cy.setWidth 32, h.avgBrightness.setWidth 32,
      h.maxBrightness.setWidth 32, h.range.setWidth 32, h.radius.setWidth 32, h.boundary0.setWidth 32,
      h.boundary1.setWidth 32, h.boundary2.setWidth 32, h.boundary3.setWidth 32, h.aspectRatio.setWidth 32,
      h.vx.setWidth 32, h.vy.setWidth 32].flatMap le32 := by
    simp only [motRecord, List.flatMap_cons, List.flatMap_nil, List.append_assoc, List.append_nil]
  rw [hwords, motOfRecord_flatMap_le32]
  simp (disch := decide) only [motOfWords, setWidth_setWidth_word]

/-- Settles O48: both round trips go field by field. -/
theorem motDataRoundTrip : Obligations.MotDataRoundTrip := fun h =>
  ⟨motUnpack_motPack h, motOfRecord_motRecord h, length_motPack h, length_motRecord h⟩

/-- Unpacking a marker pair undoes packing it (rule R218). -/
theorem mkUnpack_mkPack (x y : BitVec 12) :
    mkUnpack (x.extractLsb' 0 8) (y.extractLsb' 0 4 ++ x.extractLsb' 8 4) (y.extractLsb' 4 8) = (x, y) := by
  have hx := x.isLt
  have hy := y.isLt
  refine Prod.ext (BitVec.eq_of_toNat_eq ?_) (BitVec.eq_of_toNat_eq ?_)
  · show ((y.extractLsb' 0 4 ++ x.extractLsb' 8 4).extractLsb' 0 4 ++ x.extractLsb' 0 8).toNat = x.toNat
    rw [toNat_append_eq, toNat_extract_eq, toNat_append_eq]
    simp only [toNat_extract_eq]
    omega
  · show (y.extractLsb' 4 8 ++ (y.extractLsb' 0 4 ++ x.extractLsb' 8 4).extractLsb' 4 4).toNat = y.toNat
    rw [toNat_append_eq, toNat_extract_eq, toNat_extract_eq, toNat_append_eq]
    simp only [toNat_extract_eq]
    omega

/-- A packed marker pair as a number (rule R216). -/
theorem u32le_mkPack (x y : BitVec 12) :
    u32le (byteAt (mkPack x y) 0) (byteAt (mkPack x y) 1) (byteAt (mkPack x y) 2) 0 =
      BitVec.ofNat 32 (x.toNat + 4096 * y.toNat) := by
  have hx := x.isLt
  have hy := y.isLt
  apply BitVec.eq_of_toNat_eq
  rw [u32le_toNat, BitVec.toNat_ofNat]
  show (x.extractLsb' 0 8).toNat + 2 ^ 8 * (y.extractLsb' 0 4 ++ x.extractLsb' 8 4).toNat +
    2 ^ 16 * (y.extractLsb' 4 8).toNat + 2 ^ 24 * 0 = _
  rw [toNat_append_eq]
  simp only [toNat_extract_eq]
  omega

/-- The pair in a packed number (rule R217). -/
theorem mkUnpack_word (v : BitVec 24) :
    let q := mkUnpack (v.extractLsb' 0 8) (v.extractLsb' 8 8) (v.extractLsb' 16 8)
    q.1.setWidth 32 = BitVec.ofNat 32 (v.toNat % 4096) ∧ q.2.setWidth 32 = BitVec.ofNat 32 (v.toNat / 4096) := by
  have hv := v.isLt
  refine ⟨BitVec.eq_of_toNat_eq ?_, BitVec.eq_of_toNat_eq ?_⟩
  · show (((v.extractLsb' 8 8).extractLsb' 0 4 ++ v.extractLsb' 0 8).setWidth 32).toNat = _
    rw [BitVec.toNat_setWidth_of_le (by decide), toNat_append_eq, BitVec.toNat_ofNat]
    simp only [toNat_extract_eq]
    omega
  · show ((v.extractLsb' 16 8 ++ (v.extractLsb' 8 8).extractLsb' 4 4).setWidth 32).toNat = _
    rw [BitVec.toNat_setWidth_of_le (by decide), toNat_append_eq, BitVec.toNat_ofNat]
    simp only [toNat_extract_eq]
    omega

/-- Settles O50: both commands complete with the pair as a number, or with its two halves. -/
theorem markerCommandsAndRoundTrip : Obligations.MarkerCommandsAndRoundTrip := by
  refine ⟨fun s x y v => ⟨?pack, ?unpack⟩, fun x y => ⟨_, _, _, rfl, mkUnpack_mkPack x y⟩⟩
  case pack =>
    rw [← u32le_mkPack]
    exact State.completesOnly_of_exec rfl
  case unpack =>
    obtain ⟨hx, hy⟩ := mkUnpack_word v
    rw [← hx, ← hy]
    exact State.completesOnly_of_exec rfl

/-! Pieces of a byte sequence. -/

/-- The `n` bytes of `r` from index `a` up. -/
def slice (r : List Byte) (a n : Nat) : List Byte := (r.drop a).take n

theorem slice_append_slice (r : List Byte) (a n m : Nat) : slice r a n ++ slice r (a + n) m = slice r a (n + m) := by
  rw [slice, slice, slice, List.take_add, List.drop_drop]

/-- A slice that ends with the sequence is what is left of it. -/
theorem slice_eq_drop {r : List Byte} {a n : Nat} (h : r.length = a + n) : slice r a n = r.drop a :=
  List.take_of_length_le (by rw [List.length_drop]; omega)

/-- Slices of one length that follow each other make one slice. -/
theorem flatMap_slice (r : List Byte) (a m n : Nat) :
    ((List.range n).flatMap fun i => slice r (a + m * i) m) = slice r a (m * n) := by
  induction n with
  | zero => simp [slice]
  | succ n ih =>
    rw [List.range_succ, List.flatMap_append, ih, List.flatMap_singleton, slice_append_slice, Nat.mul_succ]

/-- The bytes of a word of a sequence are its slice. -/
theorem le32_wordAt_eq_slice {r : List Byte} {i : Nat} (h : i + 4 ≤ r.length) : le32 (wordAt r i) = slice r i 4 := by
  have hbyte (j : Nat) (hj : i + j < r.length) : (r.drop i)[j]? = some (byteAt r (i + j)) := by
    rw [List.getElem?_drop, byteAt, List.getD_eq_getElem _ _ hj, List.getElem?_eq_getElem hj]
  rw [le32_wordAt, slice]
  refine List.ext_getElem? fun j => ?_
  rcases Nat.lt_or_ge j 4 with hj | hj
  · rw [List.getElem?_take_of_lt hj, hbyte j (by omega)]
    rcases (by omega : j = 0 ∨ j = 1 ∨ j = 2 ∨ j = 3) with rfl | rfl | rfl | rfl <;> rfl
  · rw [List.getElem?_eq_none (by simpa using hj), List.getElem?_eq_none (by rw [List.length_take]; omega)]

/-- A word that fits its field is written as the bytes it was read from. -/
theorem le32_field_eq_slice {r : List Byte} {i n : Nat} (h : i + 4 ≤ r.length) (hfit : (wordAt r i).toNat < 2 ^ n) :
    le32 (((wordAt r i).setWidth n).setWidth 32) = slice r i 4 := by
  rw [setWidth_setWidth_eq_lowBits, lowBits_of_fits hfit, le32_wordAt_eq_slice h]

/-! Bytes, halfwords and MotData inside a concatenation of pieces. -/

theorem halfAt_congr {p p' : List Byte} {b b' : Nat} (h : ∀ j, j < 2 → byteAt p (b + j) = byteAt p' (b' + j)) :
    halfAt p b = halfAt p' b' := by
  rw [halfAt, halfAt, show byteAt p b = byteAt p' b' from h 0 (by decide), h 1 (by decide)]

theorem wordAt_congr {p p' : List Byte} {b b' : Nat} (h : ∀ j, j < 4 → byteAt p (b + j) = byteAt p' (b' + j)) :
    wordAt p b = wordAt p' b' := by
  rw [wordAt, wordAt, show byteAt p b = byteAt p' b' from h 0 (by decide), h 1 (by decide), h 2 (by decide),
    h 3 (by decide)]

theorem motUnpack_congr {p p' : List Byte} {b b' : Nat} (h : ∀ j, j < 16 → byteAt p (b + j) = byteAt p' (b' + j)) :
    motUnpack p b = motUnpack p' b' := by
  have h0 : byteAt p b = byteAt p' b' := h 0 (by decide)
  simp only [motUnpack, halfAt, h0, h 1 (by decide), h 2 (by decide), h 3 (by decide), h 4 (by decide), h 5 (by decide),
    h 6 (by decide), h 7 (by decide), h 8 (by decide), h 9 (by decide), h 10 (by decide), h 11 (by decide),
    h 12 (by decide), h 13 (by decide), h 14 (by decide), h 15 (by decide)]

/-- Byte `j` of piece `i`, when other bytes stand before and after the pieces. -/
theorem byteAt_pieces (pre post : List Byte) {n m : Nat} {f : Nat → List Byte} (hf : ∀ i, (f i).length = m) {i j : Nat}
    (hi : i < n) (hj : j < m) :
    byteAt (pre ++ (List.range n).flatMap f ++ post) (pre.length + m * i + j) = byteAt (f i) j := by
  have hlen : ((List.range n).flatMap f).length = m * n := by
    rw [length_flatMap_pieces _ f m hf, List.length_range]
  have hlt : m * i + j < m * n := by
    have : m * (i + 1) ≤ m * n := Nat.mul_le_mul_left _ hi
    rw [Nat.mul_succ] at this
    omega
  rw [byteAt_append_left _ (by rw [List.length_append, hlen]; omega), byteAt_append_right _ _ (by omega),
    show pre.length + m * i + j - pre.length = m * i + j by omega]
  exact byteAt_flatMap_pieces n f m hf i j hi hj

/-! The payload's pieces, kind by kind (rules R191 to R195). -/

/-- Byte `j` of the `i`-th MotData of an OBJ payload. -/
theorem byteAt_packPayload_obj (r : List Byte) {i j : Nat} (hi : i < 32) (hj : j < 16) :
    byteAt (packPayload .obj r) (4 + 16 * i + j) = byteAt (motPack (motOfRecord r (12 + 56 * i))) j :=
  byteAt_pieces (le32 (wordAt r 8)) _ (fun _ => length_motPack _) hi hj

/-- The bytes behind the 32 MotData of an OBJ payload. -/
theorem byteAt_packPayload_obj_tail (r : List Byte) (j : Nat) :
    byteAt (packPayload .obj r) (516 + j) = byteAt [(wordAt r 1804).setWidth 8, (wordAt r 1808).setWidth 8] j := by
  have hpre : (le32 (wordAt r 8) ++ (List.range 32).flatMap fun i => motPack (motOfRecord r (12 + 56 * i))).length =
      516 := by
    rw [List.length_append, length_le32, length_flatMap_pieces _ _ 16 fun _ => length_motPack _, List.length_range]
  refine (byteAt_append_right _ _ (by omega)).trans ?_
  rw [hpre, Nat.add_sub_cancel_left]

/-- Byte `j` of the `i`-th marker pair of an MRK payload. -/
theorem byteAt_packPayload_mrk (r : List Byte) {i j : Nat} (hi : i < 32) (hj : j < 3) :
    byteAt (packPayload .mrk r) (3 * i + j) =
      byteAt (mkPack ((wordAt r (8 + 8 * i)).setWidth 12) ((wordAt r (12 + 8 * i)).setWidth 12)) j :=
  byteAt_flatMap_pieces 32 _ 3 (fun _ => length_mkPack _ _) i j hi hj

/-- Byte `j` of the `i`-th sample of an ACC payload. -/
theorem byteAt_packPayload_acc (r : List Byte) {i j : Nat} (hi : i < 6) (hj : j < 2) :
    byteAt (packPayload .acc r) (4 + 2 * i + j) = byteAt (le16 ((wordAt r (12 + 4 * i)).setWidth 16)) j := by
  have hpieces := byteAt_pieces (le32 (wordAt r 8)) [] (f := fun i => le16 ((wordAt r (12 + 4 * i)).setWidth 16))
    (fun _ => length_le16 _) hi hj
  rwa [List.append_nil] at hpieces

/-- Byte `j` of the `i`-th number of a VER payload. -/
theorem byteAt_packPayload_ver (r : List Byte) {i j : Nat} (hi : i < 6) (hj : j < 2) :
    byteAt (packPayload .ver r) (2 * i + j) = byteAt (le16 ((wordAt r (8 + 4 * i)).setWidth 16)) j :=
  byteAt_flatMap_pieces 6 _ 2 (fun _ => length_le16 _) i j hi hj

theorem halfAt_le16 (v : Half) : halfAt (le16 v) 0 = v := u16le_le16 v

/-! The round trip, kind by kind (rule R198). -/

section
variable {r : List Byte}

/-- A MotData host record whose words fit their fields is written as the bytes it was read from. -/
theorem motRecord_motOfRecord {a : Nat} (hlen : a + 56 ≤ r.length)
    (hfit : ∀ j w, motWidths[j]? = some w → (wordAt r (a + 4 * j)).toNat < 2 ^ w) :
    motRecord (motOfRecord r a) = slice r a 56 := by
  have hfield (o w : Nat) (hw : motWidths[o / 4]? = some w) (ho : 4 * (o / 4) = o) :
      le32 (((wordAt r (a + o)).setWidth w).setWidth 32) = slice r (a + o) 4 := by
    have hlt : o / 4 < 14 := (List.getElem?_eq_some_iff.1 hw).1
    exact le32_field_eq_slice (by omega) (ho ▸ hfit (o / 4) w hw)
  have harea : le32 (((wordAt r a).setWidth 16).setWidth 32) = slice r a 4 := hfield 0 16 rfl rfl
  simp only [motRecord, motOfRecord, harea, hfield 4 12 rfl rfl, hfield 8 12 rfl rfl, hfield 12 8 rfl rfl,
    hfield 16 8 rfl rfl, hfield 20 4 rfl rfl, hfield 24 4 rfl rfl, hfield 28 7 rfl rfl, hfield 32 7 rfl rfl,
    hfield 36 7 rfl rfl, hfield 40 7 rfl rfl, hfield 44 8 rfl rfl, hfield 48 8 rfl rfl, hfield 52 8 rfl rfl,
    slice_append_slice, Nat.reduceAdd]

theorem unpackPayload_packPayload_obj (hlen : r.length = 1812)
    (hmots : ∀ i j w, i < 32 → motWidths[j]? = some w → (wordAt r (12 + 56 * i + 4 * j)).toNat < 2 ^ w)
    (h1804 : (wordAt r 1804).toNat < 2 ^ 8) (h1808 : (wordAt r 1808).toNat < 2 ^ 8) :
    unpackPayload .obj (packPayload .obj r) = r.drop 8 := by
  have hhead : wordAt (packPayload .obj r) 0 = wordAt r 8 := by
    rw [← wordAt_le32 (wordAt r 8)]
    rfl
  have hmot (i : Nat) (hi : i < 32) :
      motRecord (motUnpack (packPayload .obj r) (4 + 16 * i)) = slice r (12 + 56 * i) 56 := by
    rw [motUnpack_congr (p' := motPack (motOfRecord r (12 + 56 * i))) (b' := 0)
      fun j hj => by rw [byteAt_packPayload_obj r hi hj, Nat.zero_add], motUnpack_motPack]
    exact motRecord_motOfRecord (by omega) fun j w hj => hmots i j w hi hj
  have hmots : ((List.range 32).flatMap fun i => motRecord (motUnpack (packPayload .obj r) (4 + 16 * i))) =
      slice r 12 (56 * 32) := by
    rw [← flatMap_slice]
    exact List.flatMap_congr fun i hi => hmot i (List.mem_range.1 hi)
  have h516 : byteAt (packPayload .obj r) 516 = (wordAt r 1804).setWidth 8 := byteAt_packPayload_obj_tail r 0
  have h517 : byteAt (packPayload .obj r) 517 = (wordAt r 1808).setWidth 8 := byteAt_packPayload_obj_tail r 1
  rw [unpackPayload, hmots, hhead, h516, h517, le32_field_eq_slice (by omega) h1804,
    le32_field_eq_slice (by omega) h1808, le32_wordAt_eq_slice (by omega)]
  rw [show slice r 8 4 ++ slice r 12 (56 * 32) = slice r 8 1796 from slice_append_slice r 8 4 1792,
    show slice r 8 1796 ++ slice r 1804 4 = slice r 8 1800 from slice_append_slice r 8 1796 4,
    show slice r 8 1800 ++ slice r 1808 4 = slice r 8 1804 from slice_append_slice r 8 1800 4]
  exact slice_eq_drop hlen

theorem unpackPayload_packPayload_mrk (hlen : r.length = 264)
    (hfit : ∀ i, i < 64 → (wordAt r (8 + 4 * i)).toNat < 2 ^ 12) :
    unpackPayload .mrk (packPayload .mrk r) = r.drop 8 := by
  have hpair (i : Nat) (hi : i < 32) :
      mkUnpack (byteAt (packPayload .mrk r) (3 * i)) (byteAt (packPayload .mrk r) (3 * i + 1))
        (byteAt (packPayload .mrk r) (3 * i + 2)) =
      ((wordAt r (8 + 8 * i)).setWidth 12, (wordAt r (12 + 8 * i)).setWidth 12) := by
    have h0 := byteAt_packPayload_mrk r hi (j := 0) (by decide)
    rw [Nat.add_zero] at h0
    rw [h0, byteAt_packPayload_mrk r hi (j := 1) (by decide), byteAt_packPayload_mrk r hi (j := 2) (by decide)]
    exact mkUnpack_mkPack _ _
  have hpiece (i : Nat) (hi : i < 32) :
      (let q := mkUnpack (byteAt (packPayload .mrk r) (3 * i)) (byteAt (packPayload .mrk r) (3 * i + 1))
        (byteAt (packPayload .mrk r) (3 * i + 2))
      le32 (q.1.setWidth 32) ++ le32 (q.2.setWidth 32)) = slice r (8 + 8 * i) 8 := by
    have hx := hfit (2 * i) (by omega)
    have hy := hfit (2 * i + 1) (by omega)
    rw [show 8 + 4 * (2 * i) = 8 + 8 * i by omega] at hx
    rw [show 8 + 4 * (2 * i + 1) = 12 + 8 * i by omega] at hy
    rw [hpair i hi]
    show le32 (((wordAt r (8 + 8 * i)).setWidth 12).setWidth 32) ++
      le32 (((wordAt r (12 + 8 * i)).setWidth 12).setWidth 32) = _
    rw [le32_field_eq_slice (by omega) hx, le32_field_eq_slice (by omega) hy,
      show 12 + 8 * i = 8 + 8 * i + 4 by omega, slice_append_slice]
  rw [unpackPayload, List.flatMap_congr fun i hi => hpiece i (List.mem_range.1 hi), flatMap_slice]
  exact slice_eq_drop hlen

theorem unpackPayload_packPayload_acc (hlen : r.length = 36)
    (hsign : ∀ i, i < 6 → wordAt r (12 + 4 * i) = ((wordAt r (12 + 4 * i)).setWidth 16).signExtend 32) :
    unpackPayload .acc (packPayload .acc r) = r.drop 8 := by
  have hhead : wordAt (packPayload .acc r) 0 = wordAt r 8 := by
    rw [← wordAt_le32 (wordAt r 8)]
    rfl
  have hpiece (i : Nat) (hi : i < 6) :
      le32 ((halfAt (packPayload .acc r) (4 + 2 * i)).signExtend 32) = slice r (12 + 4 * i) 4 := by
    rw [halfAt_congr (p' := le16 ((wordAt r (12 + 4 * i)).setWidth 16)) (b' := 0)
      fun j hj => by rw [byteAt_packPayload_acc r hi hj, Nat.zero_add], halfAt_le16, ← hsign i hi,
      le32_wordAt_eq_slice (by omega)]
  rw [unpackPayload, List.flatMap_congr fun i hi => hpiece i (List.mem_range.1 hi), flatMap_slice, hhead,
    le32_wordAt_eq_slice (by omega), slice_append_slice]
  exact slice_eq_drop hlen

theorem unpackPayload_packPayload_ver (hlen : r.length = 32)
    (hfit : ∀ i, i < 6 → (wordAt r (8 + 4 * i)).toNat < 2 ^ 16) :
    unpackPayload .ver (packPayload .ver r) = r.drop 8 := by
  have hpiece (i : Nat) (hi : i < 6) :
      le32 ((halfAt (packPayload .ver r) (2 * i)).setWidth 32) = slice r (8 + 4 * i) 4 := by
    rw [halfAt_congr (p' := le16 ((wordAt r (8 + 4 * i)).setWidth 16)) (b' := 0)
      fun j hj => by rw [byteAt_packPayload_ver r hi hj, Nat.zero_add], halfAt_le16,
      le32_field_eq_slice (by omega) (hfit i hi)]
  rw [unpackPayload, List.flatMap_congr fun i hi => hpiece i (List.mem_range.1 hi), flatMap_slice]
  exact slice_eq_drop hlen

/-- Bytes that are all 0 are what a vendor record's padding is filled with. -/
theorem slice_eq_replicate {a n : Nat} (hlen : a + n ≤ r.length) (hzero : ∀ j, j < n → byteAt r (a + j) = 0) :
    slice r a n = List.replicate n 0 := by
  have hslice : (slice r a n).length = n := by
    rw [slice, List.length_take, List.length_drop]
    omega
  refine List.eq_replicate_iff.2 ⟨hslice, fun b hb => ?_⟩
  obtain ⟨j, hj, rfl⟩ := List.mem_iff_getElem.1 hb
  rw [← hzero j (by omega), byteAt, List.getD_eq_getElem _ _ (by omega)]
  simp only [slice, List.getElem_take, List.getElem_drop]

theorem unpackPayload_packPayload_vend (hlen : r.length = 114) (hsub : (wordAt r 8).toNat < 2 ^ 8)
    (hn : (wordAt r 12).toNat ≤ 98) (hpad : ∀ j, (wordAt r 12).toNat ≤ j → j < 98 → byteAt r (16 + j) = 0) :
    unpackPayload .vend (packPayload .vend r) = r.drop 8 := by
  have h0 : byteAt (packPayload .vend r) 0 = (wordAt r 8).setWidth 8 := rfl
  have h1 : byteAt (packPayload .vend r) 1 = (wordAt r 12).setWidth 8 := rfl
  have hlen1 : (byteAt (packPayload .vend r) 1).toNat = (wordAt r 12).toNat := by
    rw [h1, BitVec.toNat_setWidth, Nat.mod_eq_of_lt (by omega)]
  have hdata : ((packPayload .vend r).drop 2).take (wordAt r 12).toNat = slice r 16 (wordAt r 12).toNat := by
    have hdrop : (packPayload .vend r).drop 2 =
        (r.drop 16).take (wordAt r 12).toNat ++ List.replicate (98 - (wordAt r 12).toNat) 0 := rfl
    rw [hdrop, List.take_append_of_le_length (by rw [List.length_take, List.length_drop]; omega), List.take_take,
      Nat.min_self, slice]
  have hzeros : List.replicate (98 - (wordAt r 12).toNat) 0 =
      slice r (16 + (wordAt r 12).toNat) (98 - (wordAt r 12).toNat) :=
    (slice_eq_replicate (by omega) fun j hj => by
      rw [Nat.add_assoc]
      exact hpad _ (by omega) (by omega)).symm
  simp only [unpackPayload]
  rw [hlen1, hdata, hzeros, h0, h1, le32_field_eq_slice (by omega) hsub,
    le32_field_eq_slice (by omega) (by omega : (wordAt r 12).toNat < 2 ^ 8)]
  rw [show slice r 8 4 ++ slice r 12 4 = slice r 8 8 from slice_append_slice r 8 4 4,
    show slice r 8 8 ++ slice r 16 _ = slice r 8 _ from slice_append_slice r 8 8 _,
    show 16 + (wordAt r 12).toNat = 8 + (8 + (wordAt r 12).toNat) by omega, slice_append_slice]
  exact slice_eq_drop (by omega)

/-- An opaque record's body is its LEN word and its payload. -/
theorem unpackPayload_packPayload_of_opaque {k : Kind} (hk : k.described = false) (hv : k ≠ .vend)
    (hlen : 12 ≤ r.length) (hn : (wordAt r 8).toNat = r.length - 12) : unpackPayload k (packPayload k r) = r.drop 8 := by
  have hrest : r.drop 12 = slice r 12 (r.length - 12) := (slice_eq_drop (by omega)).symm
  rw [packPayload_of_opaque hk hv, unpackPayload_of_opaque hk hv, List.length_drop, ← hn, wordOf, BitVec.ofNat_toNat,
    BitVec.setWidth_eq, le32_wordAt_eq_slice (by omega), hrest,
    show slice r 8 4 ++ slice r 12 (r.length - 12) = _ from slice_append_slice r 8 4 _]
  exact slice_eq_drop (by omega)

end

/-- Settles O45: kind by kind, the host record's words are the slices the payload gives back. -/
theorem payloadRoundTrip : Obligations.PayloadRoundTrip := by
  intro k r n _ hlen ⟨_, _, hcanon⟩
  cases k with
  | obj => exact unpackPayload_packPayload_obj hlen hcanon.1 hcanon.2.1 hcanon.2.2
  | mrk => exact unpackPayload_packPayload_mrk hlen hcanon
  | acc => exact unpackPayload_packPayload_acc hlen hcanon
  | ver => exact unpackPayload_packPayload_ver hlen hcanon
  | vend => exact unpackPayload_packPayload_vend hlen hcanon.1 hcanon.2.1 hcanon.2.2
  | fix _ | var =>
    exact unpackPayload_packPayload_of_opaque rfl nofun (Nat.le.intro (Eq.symm hlen)) hcanon

end Sys2Proof.Machine
end

section
/-! PROOFS. The ends of PKT.SER and PKT.PARSE (rules R200, R201 and R205 to R207): the errors in the order they are
checked, and the packets of the vendor and opaque kinds. -/

namespace Sys2Proof.Machine

/-! PKT.SER's errors. -/

section
variable {s : State} {record dst cap : Word} {h : List Byte} {k : Kind} {len : Nat}

/-- An opaque record has at least the LEN word behind its TYPE and ID. -/
theorem le_hostSize_of_opaque (hv : k ≠ .vend) (hd : k.described = false) (len : Nat) : 12 ≤ hostSize k len := by
  cases k with
  | fix _ | var => exact Nat.le_add_right 12 len
  | vend => exact absurd rfl hv
  | obj | mrk | acc | ver => cases hd

/-- Every record has its TYPE and ID words. -/
theorem eight_le_hostSize (k : Kind) (len : Nat) : 8 ≤ hostSize k len := by
  cases k with
  | obj | mrk | acc | ver | vend => exact Nat.le_of_ble_eq_true rfl
  | fix _ | var => exact le_trans (by decide) (Nat.le_add_right 12 len)

/-- PKT.SER of a sendable type whose size is Known comes to its three range checks. -/
theorem exec_pktSer_sized (h8 : record.toNat + 8 ≤ s.cfg.bufBytes) (hh : s.buf.Holds record.toNat h) (hl : 8 ≤ h.length)
    (hk : sendKind s.cfg (classify s.cfg (byteAt h 0)) = some k)
    (hlen : k ≠ .vend → k.described = false →
      record.toNat + 12 ≤ s.cfg.bufBytes ∧ 12 ≤ h.length ∧ (wordAt h 8).toNat = len) :
    exec (.pktSer record dst cap) s =
      serSized record.toNat dst.toNat cap.toNat (byteAt h 0) (byteAt h 4) k len s :=
  (exec_pktSer_sendable h8 hh hl hk).trans (serKind_eq_serSized hh hlen)

/-- An opaque record whose LEN word does not lie in BUF. -/
theorem exec_pktSer_of_len_outside (h8 : record.toNat + 8 ≤ s.cfg.bufBytes) (hh : s.buf.Holds record.toNat h)
    (hl : 8 ≤ h.length) (hk : sendKind s.cfg (classify s.cfg (byteAt h 0)) = some k) (hv : k ≠ .vend)
    (hd : k.described = false) (hout : s.cfg.bufBytes < record.toNat + 12) :
    exec (.pktSer record dst cap) s = .next (s.complete .badAddress 0 0) := by
  rw [exec_pktSer_sendable h8 hh hl hk]
  cases k with
  | fix _ | var => exact withRange_of_lt _ hout
  | vend => exact absurd rfl hv
  | obj | mrk | acc | ver => cases hd

/-- A record that runs past BUF, whether or not an opaque one's LEN word still lies in it. -/
theorem exec_pktSer_of_record_outside (h8 : record.toNat + 8 ≤ s.cfg.bufBytes) (hh : s.buf.Holds record.toNat h)
    (hl : 8 ≤ h.length) (hk : sendKind s.cfg (classify s.cfg (byteAt h 0)) = some k)
    (hlen : k ≠ .vend → k.described = false → 12 ≤ h.length ∧ (wordAt h 8).toNat = len)
    (hout : s.cfg.bufBytes < record.toNat + hostSize k len) :
    exec (.pktSer record dst cap) s = .next (s.complete .badAddress 0 0) := by
  by_cases hshort : (k ≠ .vend ∧ k.described = false) ∧ s.cfg.bufBytes < record.toNat + 12
  · obtain ⟨⟨hv, hd⟩, h12⟩ := hshort
    exact exec_pktSer_of_len_outside h8 hh hl hk hv hd h12
  · rw [exec_pktSer_sized (len := len) h8 hh hl hk fun hv hd => ⟨Nat.not_lt.1 fun h12 => hshort ⟨⟨hv, hd⟩, h12⟩, hlen hv hd⟩]
    exact withRanges_of_source _ hout

end

/-- Settles O41: the type's class, the LEN word's place, the three ranges, the kind's own checks and the capacity, one
after the other. -/
theorem pktSerErrors : Obligations.PktSerErrors := by
  intro s record dst cap h h8 hh hl fails
  refine ⟨fun hc => ?invalid, fun hc => ?sentinel, fun k hk hv hd hout => ?len, fun k len hk hlen =>
    ⟨fun hout => ?record, fun hrec => ?_⟩⟩
  case invalid =>
    rw [BitVec.ofNat_toNat]
    exact State.completesOnly_of_exec (by rw [exec_pktSer h8 hh hl, hc]; rfl)
  case sentinel =>
    rw [BitVec.ofNat_toNat]
    rcases hc with hc | hc | hc <;> exact State.completesOnly_of_exec (by rw [exec_pktSer h8 hh hl, hc]; rfl)
  case len => exact State.completesOnly_of_exec (exec_pktSer_of_len_outside h8 hh hl hk hv hd hout)
  case record => exact State.completesOnly_of_exec (exec_pktSer_of_record_outside h8 hh hl hk hlen hout)
  have hsized : exec (.pktSer record dst cap) s =
      serSized record.toNat dst.toNat cap.toNat (byteAt h 0) (byteAt h 4) k len s :=
    exec_pktSer_sized h8 hh hl hk fun hv hd => ⟨by have := le_hostSize_of_opaque hv hd len; omega, hlen hv hd⟩
  refine ⟨fun hout => State.completesOnly_of_exec (hsized.trans (withRanges_of_destination _ hrec hout)), fun hdst =>
    ⟨fun hover => State.completesOnly_of_exec (hsized.trans (withRanges_of_overlap _ hrec hdst hover)), fun hapart => ?_⟩⟩
  have hchecked := exec_pktSer_checked hh hl hk hlen hrec hdst hapart
  refine ⟨fun hvend h16 => ?vend, fun n hfix => ?fix, fun hvar => ?var, fun hd hcap => ?described⟩
  case vend =>
    subst hvend
    rw [serChecked_vend hh h16] at hchecked
    refine ⟨fun hlong => State.completesOnly_of_exec (hchecked.trans (if_pos hlong)), fun hshort hcap => ?_⟩
    rw [if_neg (Nat.not_lt.2 hshort)] at hchecked
    exact State.completesOnly_of_exec (hchecked.trans (serWrite_of_lt hcap))
  case fix =>
    subst hfix
    rw [serChecked_fix] at hchecked
    refine ⟨fun hne => State.completesOnly_of_exec (hchecked.trans (if_neg hne)), fun heq hcap => ?_⟩
    rw [if_pos heq] at hchecked
    exact State.completesOnly_of_exec (hchecked.trans (serWrite_of_lt hcap))
  case var =>
    subst hvar
    rw [serChecked_var] at hchecked
    refine ⟨fun hbad => State.completesOnly_of_exec (hchecked.trans (if_pos hbad)), fun heven hle hcap => ?_⟩
    rw [if_neg (by omega)] at hchecked
    exact State.completesOnly_of_exec (hchecked.trans (serWrite_of_lt hcap))
  case described =>
    rw [serChecked_of_described hd] at hchecked
    exact State.completesOnly_of_exec (hchecked.trans (serWrite_of_lt hcap))

/-! PKT.SER's packets. -/

section
variable {s : State} {record dst cap : Word} {r : List Byte} {k : Kind} {len : Nat}

/-- What PKT.SER answers once its record is Known and its checks are passed (rule R200). -/
def serPacket (s : State) (dst : Word) (k : Kind) (plen : Nat) (r : List Byte) : State :=
  (s.store dst.toNat (packetHeader plen (byteAt r 0) (byteAt r 4) ++ packPayload k r)).complete .ok (wordOf (4 + plen))
    (wordOf plen)

/-- PKT.SER of a kind other than VEND. -/
theorem exec_pktSer_of_fits (hr : s.buf.Holds record.toNat r) (hl : r.length = hostSize k len)
    (hk : sendKind s.cfg (classify s.cfg (byteAt r 0)) = some k) (hfits : SerFits k len)
    (hlen : k.described = false → wordAt r 8 = BitVec.ofNat 32 len) (hlt : len < 2 ^ 32)
    (hrec : record.toNat + hostSize k len ≤ s.cfg.bufBytes) (hdst : dst.toNat + cap.toNat ≤ s.cfg.bufBytes)
    (hapart : Apart record.toNat (hostSize k len) dst.toNat cap.toNat) (hcap : 4 + payloadLen k len ≤ cap.toNat) :
    exec (.pktSer record dst cap) s = .next (serPacket s dst k (payloadLen k len) r) := by
  have hsize : 8 ≤ r.length := hl ▸ eight_le_hostSize k len
  have hword (hv : k ≠ .vend) (hd : k.described = false) : 12 ≤ r.length ∧ (wordAt r 8).toNat = len :=
    ⟨hl ▸ le_hostSize_of_opaque hv hd len, by rw [hlen hd, BitVec.toNat_ofNat, Nat.mod_eq_of_lt hlt]⟩
  rw [exec_pktSer_checked hr hsize hk hword hrec hdst hapart, serChecked_eq_serWrite hfits,
    serWrite_of_holds hcap hl hr]
  rfl

/-- PKT.SER of a vendor record, of which only the first 16 + LEN bytes are read. -/
theorem exec_pktSer_vend (hr : s.buf.Holds record.toNat r) (hl : r.length = 16 + (wordAt r 12).toNat)
    (hk : sendKind s.cfg (classify s.cfg (byteAt r 0)) = some .vend) (hn : (wordAt r 12).toNat ≤ 98)
    (hrec : record.toNat + 114 ≤ s.cfg.bufBytes) (hdst : dst.toNat + cap.toNat ≤ s.cfg.bufBytes)
    (hapart : Apart record.toNat 114 dst.toNat cap.toNat) (hcap : 104 ≤ cap.toNat) :
    exec (.pktSer record dst cap) s = .next (serPacket s dst .vend 100 r) := by
  rw [exec_pktSer_checked (len := 0) hr (by omega) hk (fun hv => absurd rfl hv) hrec hdst hapart,
    serChecked_vend hr (by omega), if_neg (Nat.not_lt.2 hn), serWrite_of_holds hcap hl hr]
  rfl

/-- The effects of a completed PKT.SER. -/
theorem serPacket_effects (s : State) (dst : Word) (k : Kind) (plen : Nat) (r : List Byte) :
    s.Completes (serPacket s dst k plen r) .ok (BitVec.ofNat 32 (4 + plen)) (BitVec.ofNat 32 plen) ∧
      s.buf.Stores (serPacket s dst k plen r).buf dst.toNat
        (le16 (BitVec.ofNat 16 ((plen + 4) / 2)) ++ [byteAt r 0, byteAt r 4] ++ packPayload k r) ∧
      serPacket s dst k plen r =
        { s with ports := (serPacket s dst k plen r).ports, buf := (serPacket s dst k plen r).buf } :=
  ⟨State.complete_completes rfl rfl _ _ _, Memory.write_stores _ _ _, rfl⟩

end

/-- Settles O40: the field checks pass, so the capacity check and the record's read come next. -/
theorem pktSerOfVendorAndOpaqueKinds : Obligations.PktSerOfVendorAndOpaqueKinds := by
  intro s record dst cap k r n hk hr hdst
  refine ⟨fun hv hl hn hword hrec hapart hcap => ?vend, fun hkind hl heven hle hword hrec hapart hcap => ?other⟩
  case vend =>
    subst hv
    have hlen : (wordAt r 12).toNat = n := by rw [hword, BitVec.toNat_ofNat, Nat.mod_eq_of_lt (by omega)]
    have hpayload : packPayload .vend r =
        [byteAt r 8, BitVec.ofNat 8 n] ++ r.drop 16 ++ List.replicate (98 - n) 0 := by
      have hdata : (r.drop 16).take n = r.drop 16 := List.take_of_length_le (by rw [List.length_drop]; omega)
      rw [packPayload, hlen, hdata, setWidth_wordAt, hword, BitVec.setWidth_ofNat_of_le (by decide)]
    obtain ⟨hdone, hstores, hframe⟩ := serPacket_effects s dst .vend 100 r
    refine ⟨_, exec_pktSer_vend hr (hlen.symm ▸ hl) hk (hlen.symm ▸ hn) hrec hdst hapart hcap, hdone, ?_, hframe⟩
    rw [hpayload, List.append_assoc] at hstores
    rw [List.append_assoc]
    exact hstores
  case other =>
    have hkeep : hostSize k n = 12 + n ∧ payloadLen k n = n ∧ SerFits k n ∧ packPayload k r = r.drop 12 := by
      rcases hkind with rfl | rfl
      · exact ⟨rfl, rfl, .inr (.inl rfl), rfl⟩
      · exact ⟨rfl, rfl, .inr (.inr ⟨rfl, heven, hle⟩), rfl⟩
    obtain ⟨hsize, hplen, hfits, hpayload⟩ := hkeep
    obtain ⟨hdone, hstores, hframe⟩ := serPacket_effects s dst k (payloadLen k n) r
    rw [hpayload] at hstores
    rw [hplen] at hdone hstores hframe
    refine ⟨serPacket s dst k n r, ?_, hdone, hstores, hframe⟩
    rw [← hsize] at hrec hapart hl
    rw [exec_pktSer_of_fits hr hl hk hfits (fun _ => hword) (by omega) hrec hdst hapart (hplen.symm ▸ hcap), hplen]

/-! PKT.PARSE's errors. -/

section
variable {s : State} {src len record cap : Word}

/-- A parse error counts in CNT_PARSE_ERR and completes with its code; nothing else changes. -/
theorem parseError_effects {code : StatusCode} {r0 : Word} {i : Instr} (h : exec i s = parseError code r0 s) :
    ∃ u, exec i s = .next u ∧ s.Completes u code r0 0 ∧
      u = { s with ports := u.ports, counters := { s.counters with parseErr := s.counters.parseErr + 1 } } :=
  ⟨_, h.trans (parseError_eq code r0 s), State.complete_completes rfl rfl _ _ _, rfl⟩

/-- Fewer than 3 bytes of input hold no type byte. -/
theorem exec_pktParse_of_short (hsrc : src.toNat + len.toNat ≤ s.cfg.bufBytes)
    (hrec : record.toNat + cap.toNat ≤ s.cfg.bufBytes) (hapart : Apart src.toNat len.toNat record.toNat cap.toNat)
    (h3 : len.toNat < 3) : exec (.pktParse src len record cap) s = parseError .unexpectedEof 0x100 s := by
  rw [show exec (.pktParse src len record cap) s = execPktParse src len record cap s from rfl, execPktParse,
    withRanges_of_apart _ _ _ hsrc hrec hapart, if_pos h3]

end

/-- Settles O44: the input's length, the type, the payload's length and the vendor length, then the capacity. -/
theorem pktParseErrors : Obligations.PktParseErrors := by
  intro s src len record cap hsrc hrec hapart fails
  refine ⟨fun h3 => parseError_effects (exec_pktParse_of_short hsrc hrec hapart h3), fun h3 t ht => ?_⟩
  have hparse := exec_pktParse hsrc hrec hapart h3 ht
  simp only [BitVec.ofNat_toNat]
  refine ⟨fun hk => ?unsendable, fun hk w hw => ?var, fun k hk hv => ?_⟩
  case unsendable =>
    rw [hk] at hparse
    exact parseError_effects hparse
  case var =>
    simp only [hk, parseKind_var hw] at hparse
    refine ⟨fun hsmall => ?_, fun h2 hshort => ?_⟩
    · rw [if_pos hsmall] at hparse
      exact parseError_effects hparse
    · rw [if_neg (Nat.not_lt.2 h2), parseSized_of_lt (by omega)] at hparse
      exact parseError_effects hparse
  simp only [hk, parseKind_of_ne_var hv] at hparse
  refine ⟨fun hshort => ?short, fun hlong id p hp hholds => ?_⟩
  case short =>
    rw [parseSized_of_lt hshort] at hparse
    exact parseError_effects hparse
  rw [parseSized_of_holds hlong hp hholds] at hparse
  refine ⟨fun hvend h98 => ?length, fun hkind hcap => ?capacity⟩
  case length =>
    subst hvend
    rw [parseChecked_vend, if_pos h98] at hparse
    exact parseError_effects hparse
  case capacity =>
    have hwrite : exec (.pktParse src len record cap) s = parseWrite record.toNat cap.toNat t id k p s ∧
        hostSize k p.length = hostSize k 0 := by
      rcases hkind with hd | ⟨rfl, h98⟩
      · exact ⟨hparse.trans (parseChecked_of_described hd), hostSize_of_described hd _⟩
      · exact ⟨hparse.trans (if_neg (Nat.not_lt.2 h98)), rfl⟩
    obtain ⟨hwrite, hsize⟩ := hwrite
    rw [parseWrite_eq, hsize, if_neg (Nat.not_le.2 hcap)] at hwrite
    exact State.completesOnly_of_exec hwrite

/-! PKT.PARSE's records. -/

/-- A byte as a zero-extended record word. -/
theorem le32_byte (b : Byte) : le32 (b.setWidth 32) = [b, 0, 0, 0] := by
  have hb := b.isLt
  have hpiece (k : Nat) : ((b.setWidth 32).extractLsb' k 8).toNat = b.toNat / 2 ^ k % 2 ^ 8 := by
    rw [toNat_extract_eq, BitVec.toNat_setWidth_of_le (by decide)]
  have hlow : (b.setWidth 32).extractLsb' 0 8 = b := BitVec.eq_of_toNat_eq (by rw [hpiece]; omega)
  have hzero (k : Nat) (hk : 8 ≤ k) : (b.setWidth 32).extractLsb' k 8 = 0 := by
    refine BitVec.eq_of_toNat_eq ?_
    rw [hpiece, Nat.div_eq_of_lt (hb.trans_le (Nat.pow_le_pow_right (by decide) hk))]
    rfl
  rw [le32, hlow, hzero 8 (by decide), hzero 16 (by decide), hzero 24 (by decide)]

section
variable {s : State} {src len record cap : Word} {t id : Byte} {k : Kind} {p : List Byte}

/-- What PKT.PARSE answers once its payload is accepted and the record has room (rule R205). -/
def parsedRecord (s : State) (record : Word) (t id : Byte) (k : Kind) (p : List Byte) : State :=
  (s.store record.toNat ([t, 0, 0, 0, id, 0, 0, 0] ++ unpackPayload k p)).complete .ok (wordOf (4 + p.length))
    (wordOf (hostSize k p.length))

theorem parseWrite_of_le (hcap : hostSize k p.length ≤ cap.toNat) :
    parseWrite record.toNat cap.toNat t id k p s = .next (parsedRecord s record t id k p) := by
  rw [parseWrite_eq, if_pos hcap, le32_byte, le32_byte]
  rfl

/-- The effects of a completed PKT.PARSE. -/
theorem parsedRecord_effects (s : State) (record : Word) (t id : Byte) (k : Kind) (p : List Byte) :
    s.Completes (parsedRecord s record t id k p) .ok (BitVec.ofNat 32 (4 + p.length))
        (BitVec.ofNat 32 (hostSize k p.length)) ∧
      s.buf.Stores (parsedRecord s record t id k p).buf record.toNat ([t, 0, 0, 0, id, 0, 0, 0] ++ unpackPayload k p) ∧
      parsedRecord s record t id k p =
        { s with ports := (parsedRecord s record t id k p).ports, buf := (parsedRecord s record t id k p).buf } :=
  ⟨State.complete_completes rfl rfl _ _ _, Memory.write_stores _ _ _, rfl⟩

/-- PKT.PARSE with a Known packet and enough input comes to the payload's checks. -/
theorem exec_pktParse_checked (hsrc : src.toNat + len.toNat ≤ s.cfg.bufBytes)
    (hrec : record.toNat + cap.toNat ≤ s.cfg.bufBytes) (hapart : Apart src.toNat len.toNat record.toNat cap.toNat)
    (hk : sendKind s.cfg (classify s.cfg t) = some k) {w : Half}
    (hw : k = .var → 2 ≤ w.toNat ∧ s.buf.Holds src.toNat (le16 w)) (hp : p.length = payloadLen k (2 * w.toNat - 4))
    (hlen : 4 + p.length ≤ len.toNat) (hholds : s.buf.Holds (src.toNat + 2) ([t, id] ++ p)) :
    exec (.pktParse src len record cap) s = parseChecked record.toNat cap.toNat t id k p s := by
  rw [exec_pktParse hsrc hrec hapart (by omega) (hholds 0 t rfl), hk]
  exact (parseKind_eq_parseSized hw).trans
    (parseSized_of_holds (hp ▸ hlen) hp (Memory.Holds.right (bs := [t]) hholds))

end

/-- Settles O43: the payload's checks are OPAQUE_VALIDATE's verdict. -/
theorem pktParseOfAnOpaqueKind : Obligations.PktParseOfAnOpaqueKind := by
  intro s src len record cap w t id k p hsrc hrec hapart hk hkind hlen hholds counted
  have hopaque : k.described = false ∧ k ≠ .vend ∧ hostSize k p.length = 12 + p.length ∧
      p.length = payloadLen k (2 * w.toNat - 4) ∧ (k = .var → 2 ≤ w.toNat) := by
    rcases hkind with rfl | ⟨rfl, h2, hp⟩
    · exact ⟨rfl, nofun, rfl, rfl, nofun⟩
    · exact ⟨rfl, nofun, rfl, hp, fun _ => h2⟩
  obtain ⟨hd, hv, hsize, hp, h2⟩ := hopaque
  rw [List.append_assoc] at hholds
  have hparse := exec_pktParse_checked hsrc hrec hapart hk (fun h => ⟨h2 h, hholds.left⟩) hp hlen hholds.right
  rw [parseChecked_of_opaque hd hv] at hparse
  generalize Config.opaqueValidate t p = verdict at hparse ⊢
  simp only [BitVec.ofNat_toNat]
  cases verdict with
  | unrecognizedPort | invalidBitPattern | unrecognizedStreamUpdateAction b => exact parseError_effects hparse
  | accepted =>
    by_cases hcap : 12 + p.length ≤ cap.toNat
    · obtain ⟨hdone, hstores, hframe⟩ := parsedRecord_effects s record t id k p
      rw [hsize] at hdone
      rw [unpackPayload_of_opaque hd hv] at hstores
      refine ⟨_, hparse.trans (parseWrite_of_le (hsize.symm ▸ hcap)), ?_⟩
      simp only [if_pos hcap]
      exact ⟨hdone, List.append_assoc _ _ p ▸ hstores, hframe⟩
    · simp only [parseWrite_eq, hsize, if_neg hcap] at hparse
      refine ⟨_, hparse, ?_⟩
      simp only [if_neg hcap]
      exact ⟨State.complete_completes rfl rfl _ _ _, rfl⟩

end Sys2Proof.Machine
end

section
/-! PROOFS. Where every payload byte and every record word comes from (rules R188 to R195 and R210), and the packets of
the described kinds. -/

namespace Sys2Proof.Machine

/-! The bytes of a record word's fields. -/

section
variable (r : List Byte) (i : Nat)

theorem toNat_field_extract (w k n : Nat) :
    (((wordAt r i).setWidth w).extractLsb' k n).toNat = (wordAt r i).toNat % 2 ^ w / 2 ^ k % 2 ^ n := by
  rw [toNat_extract_eq, BitVec.toNat_setWidth]

/-- The low byte of a 12-bit field. -/
theorem low_byte_of_twelve : ((wordAt r i).setWidth 12).extractLsb' 0 8 = byteAt r i := by
  have := (byteAt r i).isLt
  refine BitVec.eq_of_toNat_eq ?_
  rw [toNat_field_extract, wordAt_toNat]
  omega

/-- The low byte of a 16-bit field. -/
theorem low_byte_of_sixteen : ((wordAt r i).setWidth 16).extractLsb' 0 8 = byteAt r i := by
  have := (byteAt r i).isLt
  refine BitVec.eq_of_toNat_eq ?_
  rw [toNat_field_extract, wordAt_toNat]
  omega

/-- The high byte of a 16-bit field. -/
theorem high_byte_of_sixteen : ((wordAt r i).setWidth 16).extractLsb' 8 8 = byteAt r (i + 1) := by
  have := (byteAt r i).isLt
  have := (byteAt r (i + 1)).isLt
  refine BitVec.eq_of_toNat_eq ?_
  rw [toNat_field_extract, wordAt_toNat]
  omega

/-- The high nibble of a 12-bit field. -/
theorem high_nibble_of_twelve :
    (((wordAt r i).setWidth 12).extractLsb' 8 4).toNat = (byteAt r (i + 1)).toNat % 16 := by
  have := (byteAt r i).isLt
  have := (byteAt r (i + 1)).isLt
  rw [toNat_field_extract, wordAt_toNat]
  omega

/-- The low nibble of a 12-bit field. -/
theorem low_nibble_of_twelve : (((wordAt r i).setWidth 12).extractLsb' 0 4).toNat = (byteAt r i).toNat % 16 := by
  have := (byteAt r i).isLt
  rw [toNat_field_extract, wordAt_toNat]
  omega

/-- The upper 8 bits of a 12-bit field. -/
theorem upper_byte_of_twelve :
    (((wordAt r i).setWidth 12).extractLsb' 4 8).toNat =
      (byteAt r i).toNat / 16 + 16 * ((byteAt r (i + 1)).toNat % 16) := by
  have := (byteAt r i).isLt
  have := (byteAt r (i + 1)).isLt
  rw [toNat_field_extract, wordAt_toNat]
  omega

/-- A field of at most 8 bits comes from its word's low byte. -/
theorem toNat_small_field {w : Nat} (hw : w ≤ 8) : ((wordAt r i).setWidth w).toNat = (byteAt r i).toNat % 2 ^ w := by
  rw [← setWidth_wordAt, BitVec.toNat_setWidth, BitVec.toNat_setWidth, Nat.mod_mod_of_dvd _ (Nat.pow_dvd_pow 2 hw)]

/-- The bytes of a word, by index. -/
theorem byteAt_le32_wordAt {j : Nat} (hj : j < 4) : byteAt (le32 (wordAt r i)) j = byteAt r (i + j) := by
  rw [le32_wordAt]
  rcases (by omega : j = 0 ∨ j = 1 ∨ j = 2 ∨ j = 3) with rfl | rfl | rfl | rfl <;> rfl

end

/-! The wire layouts. -/

/-- Sixteen bytes that are packMot's are laid out as rule R188 says. -/
theorem motWireAt_of_bytes {r p : List Byte} {a b : Nat}
    (h : ∀ j, j < 16 → byteAt p (b + j) = byteAt (motPack (motOfRecord r a)) j) : MotWireAt r a p b := by
  have hseven (o : Nat) : (((wordAt r o).setWidth 7).setWidth 8).toNat = (byteAt r o).toNat % 128 :=
    (BitVec.toNat_setWidth_of_le (by decide)).trans (toNat_small_field r o (by decide))
  have hnibble (o : Nat) : ((((wordAt r o).setWidth 12).extractLsb' 8 4).setWidth 8).toNat =
      (byteAt r (o + 1)).toNat % 16 := by
    rw [BitVec.toNat_setWidth_of_le (by decide), high_nibble_of_twelve]
  refine ⟨(h 0 (by decide)).trans (low_byte_of_sixteen r a), (h 1 (by decide)).trans (high_byte_of_sixteen r a),
    (h 2 (by decide)).trans (low_byte_of_twelve r _), ?_, (h 4 (by decide)).trans (low_byte_of_twelve r _), ?_,
    (h 6 (by decide)).trans (setWidth_wordAt r _), (h 7 (by decide)).trans (setWidth_wordAt r _), ?_, fun j hj => ?_,
    fun j hj => ?_⟩
  · rw [h 3 (by decide)]
    exact hnibble (a + 4)
  · rw [h 5 (by decide)]
    exact hnibble (a + 8)
  · rw [h 8 (by decide)]
    show ((wordAt r (a + 20)).setWidth 4 ++ (wordAt r (a + 24)).setWidth 4).toNat = _
    rw [toNat_append_eq, toNat_small_field _ _ (by decide), toNat_small_field _ _ (by decide)]
    rfl
  · rw [Nat.add_assoc, h (9 + j) (by omega)]
    rcases (by omega : j = 0 ∨ j = 1 ∨ j = 2 ∨ j = 3) with rfl | rfl | rfl | rfl <;> exact hseven _
  · rw [Nat.add_assoc, h (13 + j) (by omega)]
    rcases (by omega : j = 0 ∨ j = 1 ∨ j = 2) with rfl | rfl | rfl <;> exact setWidth_wordAt r _

theorem wireLayout_obj (r : List Byte) : WireLayout .obj r (packPayload .obj r) := by
  have hmot (i : Nat) (hi : i < 32) : MotWireAt r (12 + 56 * i) (packPayload .obj r) (4 + 16 * i) :=
    motWireAt_of_bytes fun j hj => byteAt_packPayload_obj r hi hj
  refine ⟨length_packPayload_of_described rfl r, fun j hj => ?_, fun i hi => ⟨hmot i (by omega), ?_⟩,
    (byteAt_packPayload_obj_tail r 0).trans (setWidth_wordAt r _),
    (byteAt_packPayload_obj_tail r 1).trans (setWidth_wordAt r _)⟩
  · rw [← byteAt_le32_wordAt r 8 hj, packPayload, List.append_assoc, byteAt_append_left _ hj]
  · have hsecond := hmot (16 + i) (by omega)
    rwa [show 12 + 56 * (16 + i) = 908 + 56 * i by omega, show 4 + 16 * (16 + i) = 260 + 16 * i by omega] at hsecond

theorem wireLayout_mrk (r : List Byte) : WireLayout .mrk r (packPayload .mrk r) := by
  refine ⟨length_packPayload_of_described rfl r, fun i hi => ⟨?_, ?_, ?_⟩⟩
  · exact (byteAt_packPayload_mrk r hi (j := 0) (by decide)).trans (low_byte_of_twelve r _)
  · rw [byteAt_packPayload_mrk r hi (by decide)]
    show (((wordAt r (12 + 8 * i)).setWidth 12).extractLsb' 0 4 ++
      ((wordAt r (8 + 8 * i)).setWidth 12).extractLsb' 8 4).toNat = _
    rw [toNat_append_eq, low_nibble_of_twelve, high_nibble_of_twelve, show 8 + 8 * i + 1 = 9 + 8 * i by omega]
    omega
  · rw [byteAt_packPayload_mrk r hi (by decide)]
    show (((wordAt r (12 + 8 * i)).setWidth 12).extractLsb' 4 8).toNat = _
    rw [upper_byte_of_twelve, show 12 + 8 * i + 1 = 13 + 8 * i by omega]

theorem wireLayout_acc (r : List Byte) : WireLayout .acc r (packPayload .acc r) := by
  refine ⟨length_packPayload_of_described rfl r, fun j hj => ?_, fun i hi => ⟨?_, ?_⟩⟩
  · rw [← byteAt_le32_wordAt r 8 hj, packPayload, byteAt_append_left _ hj]
  · exact (byteAt_packPayload_acc r hi (j := 0) (by decide)).trans (low_byte_of_sixteen r _)
  · rw [show 5 + 2 * i = 4 + 2 * i + 1 by omega, show 13 + 4 * i = 12 + 4 * i + 1 by omega]
    exact (byteAt_packPayload_acc r hi (by decide)).trans (high_byte_of_sixteen r _)

theorem wireLayout_ver (r : List Byte) : WireLayout .ver r (packPayload .ver r) := by
  refine ⟨length_packPayload_of_described rfl r, fun i hi => ⟨?_, ?_⟩⟩
  · exact (byteAt_packPayload_ver r hi (j := 0) (by decide)).trans (low_byte_of_sixteen r _)
  · rw [show 9 + 4 * i = 8 + 4 * i + 1 by omega]
    exact (byteAt_packPayload_ver r hi (by decide)).trans (high_byte_of_sixteen r _)

theorem wireLayout_of_described {k : Kind} (hk : k.described = true) (r : List Byte) :
    WireLayout k r (packPayload k r) := by
  cases k with
  | obj => exact wireLayout_obj r
  | mrk => exact wireLayout_mrk r
  | acc => exact wireLayout_acc r
  | ver => exact wireLayout_ver r
  | fix _ | var | vend => cases hk

/-- Settles O39: with its checks passed PKT.SER stores the packet, whose payload is laid out as its kind says. -/
theorem pktSerOfADescribedKind : Obligations.PktSerOfADescribedKind := by
  intro s record dst cap k r hd hk hl hr hrec hdst hapart hcap
  obtain ⟨hdone, hstores, hframe⟩ := serPacket_effects s dst k (payloadLen k 0) r
  refine ⟨_, exec_pktSer_of_fits hr hl hk (.inl hd) (fun ho => ?_) (by decide) hrec hdst hapart hcap, hdone, hstores,
    wireLayout_of_described hd r, hframe⟩
  rw [hd] at ho
  cases ho

/-! The record layouts. -/

/-- A word of a sequence, as its four bytes. -/
theorem wordIs_of_wordAt {r : List Byte} {o n : Nat} (h : wordAt r o = BitVec.ofNat 32 n) : WordIs r o n := by
  intro j hj
  have hvalue := wordAt_toNat r o
  rw [h, BitVec.toNat_ofNat] at hvalue
  have := (byteAt r o).isLt
  have := (byteAt r (o + 1)).isLt
  have := (byteAt r (o + 2)).isLt
  have := (byteAt r (o + 3)).isLt
  rcases (by omega : j = 0 ∨ j = 1 ∨ j = 2 ∨ j = 3) with rfl | rfl | rfl | rfl <;> norm_num <;> omega

/-- A word whose four bytes are those of `n`. -/
theorem wordIs_of_bytes {r : List Byte} {o n : Nat} {v : Word} (hv : v.toNat = n)
    (h : ∀ j, j < 4 → byteAt r (o + j) = byteAt (le32 v) j) : WordIs r o n := by
  refine wordIs_of_wordAt ?_
  rw [wordAt_congr (p' := le32 v) (b' := 0) fun j hj => (h j hj).trans (by rw [Nat.zero_add]), ← hv,
    BitVec.ofNat_toNat, BitVec.setWidth_eq]
  exact u32le_le32 v

/-- A zero-extended byte in a record. -/
theorem wordIs_byte {r : List Byte} {o : Nat} {b : Byte}
    (h : ∀ j, j < 4 → byteAt r (o + j) = byteAt (le32 (b.setWidth 32)) j) : WordIs r o b.toNat :=
  wordIs_of_bytes (BitVec.toNat_setWidth_of_le (by decide)) h

/-- The `i`-th word of a MotData host record is its `i`-th field. -/
theorem wordAt_motRecord (h : MotData) (i : Nat) : wordAt (motRecord h) (4 * i) = BitVec.ofNat 32 (h.fields.getD i 0) := by
  rw [motRecord_eq_flatMap, ← List.flatMap_map, wordAt_flatMap_le32]
  exact List.getD_map _ 0 _

/-- Fifty-six bytes that are the host record of unpacked MotData are its fourteen words. -/
theorem motRecordAt_of_bytes {p r : List Byte} {a b : Nat}
    (h : ∀ j, j < 56 → byteAt r (a + j) = byteAt (motRecord (motUnpack p b)) j) : MotRecordAt p b r a := by
  have hfields := fields_motUnpack (byteAt p b) (byteAt p (b + 1)) (byteAt p (b + 2)) (byteAt p (b + 3))
    (byteAt p (b + 4)) (byteAt p (b + 5)) (byteAt p (b + 6)) (byteAt p (b + 7)) (byteAt p (b + 8)) (byteAt p (b + 9))
    (byteAt p (b + 10)) (byteAt p (b + 11)) (byteAt p (b + 12)) (byteAt p (b + 13)) (byteAt p (b + 14))
    (byteAt p (b + 15))
  have hword (i n : Nat) (hi : i < 14) (hn : (motUnpack p b).fields.getD i 0 = n) : WordIs r (a + 4 * i) n := by
    refine wordIs_of_wordAt ?_
    rw [← hn, ← wordAt_motRecord]
    exact wordAt_congr fun j hj => by rw [Nat.add_assoc]; exact h _ (by omega)
  change (motUnpack p b).fields = _ at hfields
  rw [hfields] at hword
  refine ⟨hword 0 _ (by decide) rfl, hword 1 _ (by decide) rfl, hword 2 _ (by decide) rfl, hword 3 _ (by decide) rfl,
    hword 4 _ (by decide) rfl, hword 5 _ (by decide) rfl, hword 6 _ (by decide) rfl, fun j hj => ?_, fun j hj => ?_⟩
  · rw [show a + 28 + 4 * j = a + 4 * (7 + j) by omega]
    refine hword (7 + j) _ (by omega) ?_
    rcases (by omega : j = 0 ∨ j = 1 ∨ j = 2 ∨ j = 3) with rfl | rfl | rfl | rfl <;> rfl
  · rw [show a + 44 + 4 * j = a + 4 * (11 + j) by omega]
    refine hword (11 + j) _ (by omega) ?_
    rcases (by omega : j = 0 ∨ j = 1 ∨ j = 2) with rfl | rfl | rfl <;> rfl

/-! The pieces of a record's body, kind by kind. -/

section
variable (p : List Byte)

/-- Byte `j` of the `i`-th MotData record of an OBJ body. -/
theorem byteAt_unpackPayload_obj {i j : Nat} (hi : i < 32) (hj : j < 56) :
    byteAt (unpackPayload .obj p) (4 + 56 * i + j) = byteAt (motRecord (motUnpack p (4 + 16 * i))) j := by
  rw [unpackPayload, List.append_assoc]
  exact byteAt_pieces (le32 (wordAt p 0)) _ (fun _ => length_motRecord _) hi hj

/-- The bytes behind the 32 records of an OBJ body. -/
theorem byteAt_unpackPayload_obj_tail (j : Nat) :
    byteAt (unpackPayload .obj p) (1796 + j) =
      byteAt (le32 ((byteAt p 516).setWidth 32) ++ le32 ((byteAt p 517).setWidth 32)) j := by
  have hpre : (le32 (wordAt p 0) ++ (List.range 32).flatMap fun i => motRecord (motUnpack p (4 + 16 * i))).length =
      1796 := by
    rw [List.length_append, length_le32, length_flatMap_pieces _ _ 56 fun _ => length_motRecord _, List.length_range]
  rw [unpackPayload, List.append_assoc, byteAt_append_right _ _ (by omega), hpre, Nat.add_sub_cancel_left]

/-- Byte `j` of the `i`-th pair of an MRK body. -/
theorem byteAt_unpackPayload_mrk {i j : Nat} (hi : i < 32) (hj : j < 8) :
    let q := mkUnpack (byteAt p (3 * i)) (byteAt p (3 * i + 1)) (byteAt p (3 * i + 2))
    byteAt (unpackPayload .mrk p) (8 * i + j) = byteAt (le32 (q.1.setWidth 32) ++ le32 (q.2.setWidth 32)) j :=
  byteAt_flatMap_pieces 32 _ 8 (fun _ => rfl) i j hi hj

/-- Byte `j` of the `i`-th sample of an ACC body. -/
theorem byteAt_unpackPayload_acc {i j : Nat} (hi : i < 6) (hj : j < 4) :
    byteAt (unpackPayload .acc p) (4 + 4 * i + j) = byteAt (le32 ((halfAt p (4 + 2 * i)).signExtend 32)) j := by
  have hpieces := byteAt_pieces (le32 (wordAt p 0)) [] (f := fun i => le32 ((halfAt p (4 + 2 * i)).signExtend 32))
    (fun _ => length_le32 _) hi hj
  rwa [List.append_nil] at hpieces

/-- Byte `j` of the `i`-th number of a VER body. -/
theorem byteAt_unpackPayload_ver {i j : Nat} (hi : i < 6) (hj : j < 4) :
    byteAt (unpackPayload .ver p) (4 * i + j) = byteAt (le32 ((halfAt p (2 * i)).setWidth 32)) j :=
  byteAt_flatMap_pieces 6 _ 4 (fun _ => length_le32 _) i j hi hj

/-- Byte `j` of a vendor body's data: the payload's, and 0 from its length on. -/
theorem byteAt_unpackPayload_vend (hp : p.length = 100) (hn : (byteAt p 1).toNat ≤ 98) {j : Nat} (hj : j < 98) :
    byteAt (unpackPayload .vend p) (8 + j) = if j < (byteAt p 1).toNat then byteAt p (2 + j) else 0 := by
  have hdata : ((p.drop 2).take (byteAt p 1).toNat).length = (byteAt p 1).toNat := by
    rw [List.length_take, List.length_drop]
    omega
  have hhead : (le32 ((byteAt p 0).setWidth 32) ++ le32 ((byteAt p 1).setWidth 32)).length = 8 := rfl
  simp only [unpackPayload]
  rw [List.append_assoc, byteAt_append_right _ _ (by omega), hhead, Nat.add_sub_cancel_left]
  split
  case isTrue hlt => rw [byteAt_append_left _ (by omega), byteAt_take hlt, byteAt_drop]
  case isFalse hge =>
    rw [byteAt_append_right _ _ (by omega), hdata, byteAt, List.getD_replicate _ (by omega)]

end

/-- The value of a sign-extended sample. -/
theorem toNat_signExtend_half (v : Half) :
    (v.signExtend 32).toNat = if v.toNat < 32768 then v.toNat else v.toNat + 0xFFFF0000 := by
  have hv := v.isLt
  rw [BitVec.toNat_signExtend, BitVec.toNat_setWidth, BitVec.msb_eq_decide]
  by_cases h : v.toNat < 32768
  · rw [if_neg (by simpa using h), if_pos h]
    omega
  · rw [if_pos (by simpa using h), if_neg h]
    omega

/-! The record layouts, seen from the first word after TYPE and ID. -/

section
variable {r p : List Byte}

theorem recordLayout_obj (hl : r.length = 1812) (hbody : ∀ x, byteAt r (8 + x) = byteAt (unpackPayload .obj p) x) :
    RecordLayout .obj p r := by
  have hmot (i : Nat) (hi : i < 32) : MotRecordAt p (4 + 16 * i) r (12 + 56 * i) :=
    motRecordAt_of_bytes fun j hj => by
      rw [show 12 + 56 * i + j = 8 + (4 + 56 * i + j) by omega, hbody, byteAt_unpackPayload_obj p hi hj]
  refine ⟨hl, fun j hj => ?_, fun i hi => ⟨hmot i (by omega), ?_⟩, wordIs_byte fun j hj => ?_,
    wordIs_byte fun j hj => ?_⟩
  · rw [hbody, unpackPayload, List.append_assoc, List.append_assoc, byteAt_append_left _ hj, byteAt_le32_wordAt p 0 hj,
      Nat.zero_add]
  · have hsecond := hmot (16 + i) (by omega)
    rwa [show 12 + 56 * (16 + i) = 908 + 56 * i by omega, show 4 + 16 * (16 + i) = 260 + 16 * i by omega] at hsecond
  · rw [show 1804 + j = 8 + (1796 + j) by omega, hbody, byteAt_unpackPayload_obj_tail, byteAt_append_left _ hj]
  · rw [show 1808 + j = 8 + (1796 + (4 + j)) by omega, hbody, byteAt_unpackPayload_obj_tail,
      byteAt_append_right _ _ (by rw [length_le32]; omega), length_le32, Nat.add_sub_cancel_left]

theorem recordLayout_mrk (hl : r.length = 264) (hbody : ∀ x, byteAt r (8 + x) = byteAt (unpackPayload .mrk p) x) :
    RecordLayout .mrk p r := by
  refine ⟨hl, fun i hi => ⟨wordIs_of_bytes (v := (mkUnpack (byteAt p (3 * i)) (byteAt p (3 * i + 1))
    (byteAt p (3 * i + 2))).1.setWidth 32) ?_ fun j hj => ?_, wordIs_of_bytes (v := (mkUnpack (byteAt p (3 * i))
    (byteAt p (3 * i + 1)) (byteAt p (3 * i + 2))).2.setWidth 32) ?_ fun j hj => ?_⟩⟩
  · rw [BitVec.toNat_setWidth_of_le (by decide)]
    exact nibble_append_toNat _ _
  · rw [show 8 + 8 * i + j = 8 + (8 * i + j) by omega, hbody, byteAt_unpackPayload_mrk p hi (by omega),
      byteAt_append_left _ hj]
  · have := (byteAt p (3 * i + 1)).isLt
    rw [BitVec.toNat_setWidth_of_le (by decide), mkUnpack, toNat_append_eq, toNat_extract_eq]
    omega
  · rw [show 12 + 8 * i + j = 8 + (8 * i + (4 + j)) by omega, hbody, byteAt_unpackPayload_mrk p hi (by omega),
      byteAt_append_right _ _ (by rw [length_le32]; omega), length_le32, Nat.add_sub_cancel_left]

theorem recordLayout_acc (hl : r.length = 36) (hbody : ∀ x, byteAt r (8 + x) = byteAt (unpackPayload .acc p) x) :
    RecordLayout .acc p r := by
  refine ⟨hl, fun j hj => ?_, fun i hi => ?_⟩
  · rw [hbody, unpackPayload, byteAt_append_left _ hj, byteAt_le32_wordAt p 0 hj, Nat.zero_add]
  · have hhalf : (halfAt p (4 + 2 * i)).toNat = (byteAt p (4 + 2 * i)).toNat + 256 * (byteAt p (5 + 2 * i)).toNat := by
      rw [halfAt, u16le_toNat, show 4 + 2 * i + 1 = 5 + 2 * i by omega]
      rfl
    refine wordIs_of_bytes (v := (halfAt p (4 + 2 * i)).signExtend 32) ?_ fun j hj => ?_
    · rw [toNat_signExtend_half, hhalf]
    · rw [show 12 + 4 * i + j = 8 + (4 + 4 * i + j) by omega, hbody, byteAt_unpackPayload_acc p hi hj]

theorem recordLayout_ver (hl : r.length = 32) (hbody : ∀ x, byteAt r (8 + x) = byteAt (unpackPayload .ver p) x) :
    RecordLayout .ver p r := by
  refine ⟨hl, fun i hi => wordIs_of_bytes (v := (halfAt p (2 * i)).setWidth 32) ?_ fun j hj => ?_⟩
  · rw [BitVec.toNat_setWidth_of_le (by decide), halfAt, u16le_toNat]
    rfl
  · rw [show 8 + 4 * i + j = 8 + (4 * i + j) by omega, hbody, byteAt_unpackPayload_ver p hi hj]

theorem recordLayout_vend (hl : r.length = 114) (hbody : ∀ x, byteAt r (8 + x) = byteAt (unpackPayload .vend p) x)
    (hp : p.length = 100) (hn : (byteAt p 1).toNat ≤ 98) : RecordLayout .vend p r := by
  refine ⟨hl, wordIs_byte fun j hj => ?_, wordIs_byte fun j hj => ?_, fun j hj => ?_⟩
  · simp only [hbody, unpackPayload, List.append_assoc]
    rw [byteAt_append_left _ hj]
  · rw [show 12 + j = 8 + (4 + j) by omega]
    simp only [hbody, unpackPayload, List.append_assoc]
    rw [byteAt_append_right _ _ (by rw [length_le32]; omega), length_le32, Nat.add_sub_cancel_left,
      byteAt_append_left _ hj]
  · rw [Nat.add_assoc 8 8 j, hbody, byteAt_unpackPayload_vend p hp hn hj]

end

/-- The record PKT.PARSE makes of a described or vendor payload is laid out as its kind says. -/
theorem recordLayout_unpackPayload {k : Kind} {p : List Byte} (hk : k.described = true ∨ k = .vend)
    (hp : p.length = payloadLen k 0) (hn : k = .vend → (byteAt p 1).toNat ≤ 98) (t id : Byte) :
    RecordLayout k p ([t, 0, 0, 0, id, 0, 0, 0] ++ unpackPayload k p) := by
  have hbody (x : Nat) : byteAt ([t, 0, 0, 0, id, 0, 0, 0] ++ unpackPayload k p) (8 + x) = byteAt (unpackPayload k p) x := by
    rw [byteAt_append_right _ _ (Nat.le_add_right 8 x)]
    exact congrArg _ (Nat.add_sub_cancel_left 8 x)
  have hl : ([t, 0, 0, 0, id, 0, 0, 0] ++ unpackPayload k p).length = hostSize k 0 := by
    rw [List.length_append]
    rcases hk with hd | rfl
    · exact length_unpackPayload_of_described hd p
    · exact length_unpackPayload_vend hp (hn rfl)
  cases k with
  | obj => exact recordLayout_obj hl hbody
  | mrk => exact recordLayout_mrk hl hbody
  | acc => exact recordLayout_acc hl hbody
  | ver => exact recordLayout_ver hl hbody
  | vend => exact recordLayout_vend hl hbody hp (hn rfl)
  | fix _ | var => rcases hk with hk | hk <;> cases hk

/-- PKT.PARSE of a described or vendor packet that is Known, long enough and has room for its record. -/
theorem exec_pktParse_of_room {s : State} {src len record cap : Word} {t id : Byte} {k : Kind} {p : List Byte}
    (hsrc : src.toNat + len.toNat ≤ s.cfg.bufBytes) (hrec : record.toNat + cap.toNat ≤ s.cfg.bufBytes)
    (hapart : Apart src.toNat len.toNat record.toNat cap.toNat) (hk : sendKind s.cfg (classify s.cfg t) = some k)
    (hkind : k.described = true ∨ k = .vend) (hp : p.length = payloadLen k 0) (hlen : 4 + p.length ≤ len.toNat)
    (hholds : s.buf.Holds (src.toNat + 2) ([t, id] ++ p)) (hn : k = .vend → (byteAt p 1).toNat ≤ 98)
    (hcap : hostSize k 0 ≤ cap.toNat) :
    exec (.pktParse src len record cap) s = .next (parsedRecord s record t id k p) ∧
      hostSize k p.length = hostSize k 0 := by
  rcases hkind with hd | rfl
  · have hsize := hostSize_of_described hd p.length
    rw [exec_pktParse_checked (w := 0) hsrc hrec hapart hk (by rintro rfl; cases hd)
      (by rw [payloadLen_of_described hd]; exact hp) hlen hholds, parseChecked_of_described hd,
      parseWrite_of_le (hsize ▸ hcap)]
    exact ⟨rfl, hsize⟩
  · rw [exec_pktParse_checked (w := 0) hsrc hrec hapart hk nofun hp hlen hholds, parseChecked_vend,
      if_neg (Nat.not_lt.2 (hn rfl)), parseWrite_of_le hcap]
    exact ⟨rfl, rfl⟩

/-- Settles O42: with its checks passed PKT.PARSE stores the record, which is laid out as its kind says. -/
theorem pktParseOfDescribedAndVendorKinds : Obligations.PktParseOfDescribedAndVendorKinds := by
  intro s src len record cap t id k p hsrc hrec hapart hk hkind hp hlen hholds hn hcap
  obtain ⟨hparse, hsize⟩ := exec_pktParse_of_room hsrc hrec hapart hk hkind hp hlen hholds hn hcap
  obtain ⟨hdone, hstores, hframe⟩ := parsedRecord_effects s record t id k p
  rw [hsize] at hdone
  exact ⟨_, hparse, hdone, hstores, recordLayout_unpackPayload hkind hp hn t id, hframe⟩

/-! PKT.SER and then PKT.PARSE (rule R208). -/

section
variable {r : List Byte}

/-- The vendor payload depends on the record's first 16 + LEN bytes only. -/
theorem packPayload_vend_take {n : Nat} (hn : (wordAt r 12).toNat = n) :
    packPayload .vend (r.take (16 + n)) = packPayload .vend r := by
  have hdata : ((r.take (16 + n)).drop 16).take n = (r.drop 16).take n := by
    rw [List.drop_take, Nat.add_sub_cancel_left, List.take_take, Nat.min_self]
  simp only [packPayload]
  rw [wordAt_take (by omega), wordAt_take (by omega), hn, hdata]

/-- The LEN byte of a vendor payload. -/
theorem toNat_len_packPayload_vend (hn : (wordAt r 12).toNat ≤ 98) :
    (byteAt (packPayload .vend r) 1).toNat = (wordAt r 12).toNat := by
  show ((wordAt r 12).setWidth 8).toNat = _
  rw [BitVec.toNat_setWidth, Nat.mod_eq_of_lt (by omega)]

/-- A record's first two words, when they fit a byte. -/
theorem type_id_append_drop (hl : 8 ≤ r.length) (h0 : (wordAt r 0).toNat < 2 ^ 8) (h4 : (wordAt r 4).toNat < 2 ^ 8) :
    [byteAt r 0, 0, 0, 0, byteAt r 4, 0, 0, 0] ++ r.drop 8 = r := by
  have hwords : [byteAt r 0, 0, 0, 0, byteAt r 4, 0, 0, 0] = r.take 8 := by
    calc [byteAt r 0, 0, 0, 0, byteAt r 4, 0, 0, 0]
        = le32 ((byteAt r 0).setWidth 32) ++ le32 ((byteAt r 4).setWidth 32) := by rw [le32_byte, le32_byte]; rfl
      _ = slice r 0 4 ++ slice r 4 4 := by
          rw [← setWidth_wordAt, ← setWidth_wordAt, le32_field_eq_slice (by omega) h0, le32_field_eq_slice (by omega) h4]
      _ = r.take 8 := slice_append_slice r 0 4 4
  rw [hwords, List.take_append_drop]

end

/-- PKT.SER of a whole Known record of a described or vendor kind. -/
theorem exec_pktSer_of_record {s : State} {record dst cap : Word} {k : Kind} {r : List Byte}
    (hkind : k.described = true ∨ k = .vend) (hk : sendKind s.cfg (classify s.cfg (byteAt r 0)) = some k)
    (hl : r.length = hostSize k 0) (hn : k = .vend → (wordAt r 12).toNat ≤ 98) (hr : s.buf.Holds record.toNat r)
    (hrec : record.toNat + hostSize k 0 ≤ s.cfg.bufBytes) (hdst : dst.toNat + cap.toNat ≤ s.cfg.bufBytes)
    (hapart : Apart record.toNat (hostSize k 0) dst.toNat cap.toNat) (hcap : 4 + payloadLen k 0 ≤ cap.toNat) :
    exec (.pktSer record dst cap) s = .next (serPacket s dst k (payloadLen k 0) r) := by
  rcases hkind with hd | rfl
  · exact exec_pktSer_of_fits hr hl hk (.inl hd) (fun ho => by rw [hd] at ho; cases ho) (by decide) hrec hdst hapart hcap
  · have h98 := hn rfl
    have hword : wordAt (r.take (16 + (wordAt r 12).toNat)) 12 = wordAt r 12 := wordAt_take (by omega)
    have h0 : byteAt (r.take (16 + (wordAt r 12).toNat)) 0 = byteAt r 0 := byteAt_take (by omega)
    have h4 : byteAt (r.take (16 + (wordAt r 12).toNat)) 4 = byteAt r 4 := byteAt_take (by omega)
    have hsize : r.length = 114 := hl
    rw [exec_pktSer_vend (hr.take (16 + (wordAt r 12).toNat))
      (by rw [hword, List.length_take, Nat.min_eq_left (by omega)]) (h0.symm ▸ hk) (hword.symm ▸ h98) hrec hdst hapart
      hcap, serPacket, serPacket, packPayload_vend_take rfl, h0, h4]
    rfl

/-- Settles O46: the packet PKT.SER stores is a Known input of PKT.PARSE, and its payload unpacks to the record's body. -/
theorem serializeThenParseRestoresTheRecord : Obligations.SerializeThenParseRestoresTheRecord := by
  intro s record dst cap record' cap' k r hkind hk hl hcanon hr hrec hdst hrec' hapart hapart' hcap hcap'
  have hn : k = .vend → (wordAt r 12).toNat ≤ 98 := by
    rintro rfl
    exact hcanon.2.2.2.1
  have hplen : (packPayload k r).length = payloadLen k 0 := by
    rcases hkind with hd | rfl
    · exact length_packPayload_of_described hd r
    · have h98 := hn rfl
      rw [length_packPayload_vend, show r.length = 114 from hl]
      show _ = 100
      omega
  have hlen : (BitVec.ofNat 32 (4 + payloadLen k 0)).toNat = 4 + payloadLen k 0 := by
    rw [BitVec.toNat_ofNat, Nat.mod_eq_of_lt (hcap.trans_lt cap.isLt)]
  have hstores := (serPacket_effects s dst k (payloadLen k 0) r).2.1
  have hpacket := hstores.1
  rw [List.append_assoc] at hpacket
  obtain ⟨hparse, hsize⟩ := exec_pktParse_of_room (s := serPacket s dst k (payloadLen k 0) r) (src := dst)
    (len := BitVec.ofNat 32 (4 + payloadLen k 0)) (by rw [hlen]; exact le_trans (by omega) hdst) hrec'
    (by rw [hlen]; unfold Apart at hapart' ⊢; omega) hk hkind hplen (by rw [hlen, hplen]) hpacket.right
    (fun hv => by subst hv; rw [toNat_len_packPayload_vend (hn rfl)]; exact hn rfl) hcap'
  obtain ⟨hdone, hrecord, -⟩ := parsedRecord_effects (serPacket s dst k (payloadLen k 0) r) record' (byteAt r 0)
    (byteAt r 4) k (packPayload k r)
  rw [hsize, hplen] at hdone
  obtain ⟨h0, h4, -⟩ := id hcanon
  have hbody := payloadRoundTrip k r 0 (by decide) hl hcanon
  rw [hbody, type_id_append_drop (hl ▸ eight_le_hostSize k 0) h0 h4] at hrecord
  exact ⟨_, _, exec_pktSer_of_record hkind hk hl hn hr hrec hdst hapart hcap, hparse, hrecord.1, hdone⟩

end Sys2Proof.Machine
end

section
/-! PROOFS. Rounding to a binary format (00_scope.md rule R16): what `roundTo` answers, as a relation between rational
numbers, and that it is to nearest, ties to even. -/

namespace Sys2Proof.Machine

/-! Rounding to a whole number. -/

/-- `q` is a nearest whole number to `x`, and the even one of two equally near ones. -/
def IsRne (x : ℚ) (q : ℕ) : Prop := |x - q| ≤ 1 / 2 ∧ (|x - q| = 1 / 2 → q % 2 = 0)

theorem isRne_divRne {n d : ℕ} (hd : 0 < d) : IsRne ((n : ℚ) / d) (divRne n d) := by
  have hd' : (0 : ℚ) < d := by exact_mod_cast hd
  have hx : (n : ℚ) / d = (n / d : ℕ) + ((n % d : ℕ) : ℚ) / d := by
    rw [eq_comm, ← eq_sub_iff_add_eq', div_eq_iff hd'.ne', sub_mul, div_mul_cancel₀ _ hd'.ne', eq_sub_iff_add_eq']
    exact_mod_cast Nat.div_add_mod' n d
  have hpos : 0 ≤ ((n % d : ℕ) : ℚ) / d := by positivity
  have hone : ((n % d : ℕ) : ℚ) / d < 1 := by
    rw [div_lt_one hd']
    exact_mod_cast Nat.mod_lt n hd
  have hlt : d < 2 * (n % d) ↔ 1 / 2 < ((n % d : ℕ) : ℚ) / d := by
    rw [div_lt_div_iff₀ two_pos hd', one_mul]
    exact ⟨fun h => by exact_mod_cast (by omega : d < n % d * 2), fun h => by
      have : d < n % d * 2 := by exact_mod_cast h
      omega⟩
  have heq : 2 * (n % d) = d ↔ ((n % d : ℕ) : ℚ) / d = 1 / 2 := by
    rw [div_eq_div_iff hd'.ne' two_ne_zero, one_mul]
    exact ⟨fun h => by exact_mod_cast (by omega : n % d * 2 = d), fun h => by
      have : n % d * 2 = d := by exact_mod_cast h
      omega⟩
  simp only [divRne, hlt, heq, hx]
  generalize ((n % d : ℕ) : ℚ) / d = t at hpos hone ⊢
  generalize n / d = q
  split
  case isTrue hup =>
    have habs : |(q : ℚ) + t - (q + 1 : ℕ)| = 1 - t := by
      rw [Nat.cast_succ, show (q : ℚ) + t - (q + 1) = -(1 - t) by ring, abs_neg, abs_of_pos (by linarith)]
    rw [IsRne, habs]
    rcases hup with hlt | ⟨heq, hodd⟩
    · exact ⟨by linarith, fun h => by linarith⟩
    · exact ⟨by linarith, fun _ => by omega⟩
  case isFalse hdown =>
    push Not at hdown
    obtain ⟨hle, htie⟩ := hdown
    have habs : |(q : ℚ) + t - q| = t := by rw [add_sub_cancel_left, abs_of_nonneg hpos]
    rw [IsRne, habs]
    exact ⟨hle, fun h => by have := htie h; omega⟩

section
variable {x x' : ℚ} {q q' : ℕ}

theorem IsRne.mono (h : IsRne x q) (h' : IsRne x' q') (hle : x ≤ x') : q ≤ q' := by
  obtain ⟨hnear, htie⟩ := h
  obtain ⟨hnear', htie'⟩ := h'
  by_contra hlt
  have hstep : (q' : ℚ) + 1 ≤ q := by exact_mod_cast Nat.not_le.1 hlt
  have hlow := (abs_le.1 hnear).1
  have hhigh := (abs_le.1 hnear').2
  have hx : x - q = -(1 / 2) := by linarith
  have hx' : x' - q' = 1 / 2 := by linarith
  have heven := htie (by rw [hx, abs_neg, abs_of_pos (by norm_num)])
  have heven' := htie' (by rw [hx', abs_of_pos (by norm_num)])
  have : q = q' + 1 := by
    have : (q : ℚ) = q' + 1 := by linarith
    exact_mod_cast this
  omega

/-- A whole number rounds to itself. -/
theorem isRne_natCast (n : ℕ) : IsRne n n := by
  rw [IsRne, sub_self, abs_zero]
  exact ⟨by norm_num, fun h => by norm_num at h⟩

theorem IsRne.eq_of_natCast {n : ℕ} (h : IsRne n q) : q = n :=
  le_antisymm (h.mono (isRne_natCast n) le_rfl) ((isRne_natCast n).mono h le_rfl)

/-- No whole number is nearer, and one equally near means that `q` is even. -/
theorem IsRne.nearest (h : IsRne x q) (k : ℕ) : |x - q| ≤ |x - k| ∧ (|x - q| = |x - k| → k ≠ q → q % 2 = 0) := by
  obtain ⟨hnear, htie⟩ := h
  rcases eq_or_ne k q with rfl | hne
  · exact ⟨le_rfl, fun _ h => absurd rfl h⟩
  have hapart : (1 : ℚ) ≤ |(k : ℚ) - q| := by
    have : (1 : ℤ) ≤ |(k : ℤ) - q| := Int.one_le_abs (by omega)
    exact_mod_cast this
  have hsplit : |(k : ℚ) - q| ≤ |x - k| + |x - q| := by
    calc |(k : ℚ) - q| = |(x - q) - (x - k)| := by ring_nf
      _ ≤ |x - q| + |x - k| := abs_sub _ _
      _ = _ := add_comm _ _
  exact ⟨by linarith, fun heq _ => htie (by linarith)⟩

end

/-! The exponent of a rational number. -/

/-- A power of two as the quotient of the two natural powers the model computes with. -/
theorem two_zpow_eq (t : ℤ) : (2 : ℚ) ^ t = (2 ^ t.toNat : ℕ) / (2 ^ (-t).toNat : ℕ) := by
  conv_lhs => rw [← Int.toNat_sub_toNat_neg t]
  rw [zpow_sub₀ two_ne_zero, zpow_natCast, zpow_natCast]
  push_cast
  rfl

section
variable {num den : ℕ}

theorem two_zpow_log2_le (h : 0 < num) : (2 : ℚ) ^ (num.log2 : ℤ) ≤ num := by
  rw [zpow_natCast]
  exact_mod_cast Nat.log2_self_le h.ne'

theorem lt_two_zpow_log2 (num : ℕ) : (num : ℚ) < 2 ^ ((num.log2 : ℤ) + 1) := by
  rw [show ((num.log2 : ℤ) + 1) = ((num.log2 + 1 : ℕ) : ℤ) by push_cast; rfl, zpow_natCast]
  exact_mod_cast Nat.lt_log2_self

/-- `ratioLog2` is the exponent of the greatest power of two that is at most the quotient. -/
theorem ratioLog2_spec (hn : 0 < num) (hd : 0 < den) :
    (2 : ℚ) ^ ratioLog2 num den ≤ num / den ∧ (num : ℚ) / den < 2 ^ (ratioLog2 num den + 1) := by
  have hd' : (0 : ℚ) < den := by exact_mod_cast hd
  have hcond (t : ℤ) : den * 2 ^ t.toNat ≤ num * 2 ^ (-t).toNat ↔ (2 : ℚ) ^ t ≤ num / den := by
    rw [two_zpow_eq, div_le_div_iff₀ (by positivity) hd', mul_comm den]
    exact_mod_cast Iff.rfl
  have hlow : (2 : ℚ) ^ ((num.log2 : ℤ) - den.log2 - 1) ≤ num / den := by
    rw [le_div_iff₀ hd', sub_sub, zpow_sub₀ two_ne_zero, div_mul_eq_mul_div, div_le_iff₀ (by positivity)]
    exact mul_le_mul (two_zpow_log2_le hn) (lt_two_zpow_log2 den).le hd'.le (by positivity)
  have hhigh : (num : ℚ) / den < 2 ^ ((num.log2 : ℤ) - den.log2 + 1) := by
    rw [div_lt_iff₀ hd', sub_add_eq_add_sub, zpow_sub₀ two_ne_zero, div_mul_eq_mul_div, lt_div_iff₀ (by positivity)]
    exact mul_lt_mul (lt_two_zpow_log2 num) (two_zpow_log2_le hd) (by positivity) (by positivity)
  simp only [ratioLog2, hcond]
  split
  case isTrue h => exact ⟨h, hhigh⟩
  case isFalse h => exact ⟨hlow, by rw [sub_add_cancel]; exact not_le.1 h⟩

end

/-! Rounding to a format. -/

/-- The last bit of the significand of a magnitude `v` stands at exponent `u`: `v` has at most `prec` bits from there, and
`prec` of them unless `u` is the least exponent. -/
structure IsGrid (f : FltFormat) (v : ℚ) (u : ℤ) : Prop where
  lt : v < 2 ^ (f.prec + u)
  minExp_le : f.minExp ≤ u
  le_or : (2 : ℚ) ^ (f.prec - 1 + u) ≤ v ∨ u = f.minExp

/-- The magnitude `v` rounds to `q * 2^u`, before the greatest exponent is looked at. -/
structure RoundsAt (f : FltFormat) (v : ℚ) (q : ℕ) (u : ℤ) : Prop where
  grid : IsGrid f v u
  rne : IsRne (v / 2 ^ u) q

/-- The magnitude `v` rounds to `R`. -/
def Rounds (f : FltFormat) (v R : ℚ) : Prop := ∃ q u, RoundsAt f v q u ∧ R = q * 2 ^ u

/-- A significand and an exponent of the format. -/
structure Fits (f : FltFormat) (m : ℕ) (e : ℤ) : Prop where
  lt : m < 2 ^ f.prec
  minExp_le : f.minExp ≤ e
  le_maxExp : e ≤ f.maxExp
  normal : 2 ^ (f.prec - 1) ≤ m ∨ e = f.minExp

/-- What `roundTo` makes of the rounded significand: one carry into the next exponent, or an infinity. -/
def atGrid (f : FltFormat) (neg : Bool) (q : ℕ) (u : ℤ) : Flt :=
  if q = 2 ^ f.prec then if f.maxExp < u + 1 then .inf neg else .fin neg (2 ^ (f.prec - 1)) (u + 1)
  else if f.maxExp < u then .inf neg
  else .fin neg q u

/-- A format's sizes are what IEEE 754's are: some bits, and a finite range of exponents. -/
structure FltFormat.Proper (f : FltFormat) : Prop where
  two_le_prec : 2 ≤ f.prec
  minExp_lt_maxExp : f.minExp < f.maxExp

theorem binary32_proper : binary32.Proper := ⟨by decide, by decide⟩
theorem binary64_proper : binary64.Proper := ⟨by decide, by decide⟩

section
variable {f : FltFormat} {v v' R R' : ℚ} {q q' : ℕ} {u u' : ℤ}

theorem roundTo_eq_atGrid (f : FltFormat) (neg : Bool) {num den : ℕ} (e : ℤ) (hd : 0 < den) :
    ∃ q u, RoundsAt f (num / den * 2 ^ e) q u ∧ (num ≠ 0 → roundTo f neg num den e = atGrid f neg q u) ∧
      (num = 0 → q = 0 ∧ u = f.minExp) := by
  rcases Nat.eq_zero_or_pos num with rfl | hn
  · refine ⟨0, f.minExp, ⟨⟨?_, le_rfl, .inr rfl⟩, ?_⟩, fun h => absurd rfl h, fun _ => ⟨rfl, rfl⟩⟩
    · rw [Nat.cast_zero, zero_div, zero_mul]
      positivity
    · rw [Nat.cast_zero, zero_div, zero_mul, zero_div]
      exact isRne_natCast 0
  obtain ⟨hle, hlt⟩ := ratioLog2_spec hn hd
  set u : ℤ := max (ratioLog2 num den + e - ((f.prec : ℤ) - 1)) f.minExp with hu
  have hpow (t : ℤ) : (2 : ℚ) ^ (t + e) = 2 ^ t * 2 ^ e := zpow_add₀ two_ne_zero t e
  refine ⟨divRne (num * 2 ^ (e - u).toNat) (den * 2 ^ (u - e).toNat), u, ⟨⟨?lt, le_max_right _ _, ?normal⟩, ?rne⟩,
    fun hne => if_neg hne, fun h => absurd h hn.ne'⟩
  case lt =>
    calc (num : ℚ) / den * 2 ^ e < 2 ^ (ratioLog2 num den + 1) * 2 ^ e := by gcongr
      _ = 2 ^ (ratioLog2 num den + 1 + e) := (hpow _).symm
      _ ≤ 2 ^ (f.prec + u) := zpow_le_zpow_right₀ one_le_two (by omega)
  case normal =>
    rcases max_choice (ratioLog2 num den + e - ((f.prec : ℤ) - 1)) f.minExp with h | h
    · left
      rw [hu, h, show (f.prec : ℤ) - 1 + (ratioLog2 num den + e - (f.prec - 1)) = ratioLog2 num den + e by ring, hpow]
      gcongr
    · exact .inr h
  case rne =>
    have hx : (num : ℚ) / den * 2 ^ e / 2 ^ u =
        ((num * 2 ^ (e - u).toNat : ℕ) : ℚ) / (den * 2 ^ (u - e).toNat : ℕ) := by
      rw [mul_div_assoc, ← zpow_sub₀ two_ne_zero, two_zpow_eq, neg_sub]
      push_cast
      rw [div_mul_div_comm]
    rw [hx]
    exact isRne_divRne (by positivity)

theorem two_zpow_pred_add (f : FltFormat) (hf : f.Proper) (u : ℤ) :
    (2 : ℚ) ^ ((f.prec : ℤ) - 1 + u) = (2 ^ (f.prec - 1) : ℕ) * 2 ^ u := by
  have := hf.two_le_prec
  rw [zpow_add₀ two_ne_zero, show (f.prec : ℤ) - 1 = ((f.prec - 1 : ℕ) : ℤ) by omega, zpow_natCast]
  push_cast
  rfl

theorem two_zpow_prec_add (f : FltFormat) (u : ℤ) : (2 : ℚ) ^ (f.prec + u) = (2 ^ f.prec : ℕ) * 2 ^ u := by
  rw [zpow_add₀ two_ne_zero, zpow_natCast]
  push_cast
  rfl

/-- The rounded significand is at most one too long, and has its leading bit above the least exponent. -/
theorem RoundsAt.bounds (hf : f.Proper) (h : RoundsAt f v q u) : q ≤ 2 ^ f.prec ∧ (2 ^ (f.prec - 1) ≤ q ∨ u = f.minExp) := by
  have hu : (0 : ℚ) < 2 ^ u := by positivity
  refine ⟨h.rne.mono (isRne_natCast _) ?_, h.grid.le_or.imp_left fun hle => (isRne_natCast _).mono h.rne ?_⟩
  · rw [div_le_iff₀ hu, ← two_zpow_prec_add]
    exact h.grid.lt.le
  · rwa [le_div_iff₀ hu, ← two_zpow_pred_add f hf]

/-- What the carry makes of the significand: an infinity exactly from the value past the greatest exponent on, and
otherwise the same value with a significand of the format. -/
theorem atGrid_cases (hf : f.Proper) (h : RoundsAt f v q u) (neg : Bool) :
    (atGrid f neg q u = .inf neg ∧ (2 : ℚ) ^ (f.prec + f.maxExp) ≤ q * 2 ^ u) ∨
      ∃ m w, atGrid f neg q u = .fin neg m w ∧ (m : ℚ) * 2 ^ w = q * 2 ^ u ∧ Fits f m w ∧ (q % 2 = 0 → m % 2 = 0) := by
  obtain ⟨hq, hnormal⟩ := h.bounds hf
  have hmin := h.grid.minExp_le
  have hprec := hf.two_le_prec
  have hexp := hf.minExp_lt_maxExp
  rw [atGrid]
  split
  case isTrue hcarry =>
    have hvalue : (q : ℚ) * 2 ^ u = 2 ^ (f.prec + u) := by rw [two_zpow_prec_add, hcarry]
    split
    case isTrue hinf => exact .inl ⟨rfl, hvalue ▸ zpow_le_zpow_right₀ one_le_two (by omega)⟩
    case isFalse hfin =>
      refine .inr ⟨_, _, rfl, ?_, ⟨Nat.pow_lt_pow_right (by decide) (by omega), by omega, by omega, .inl le_rfl⟩, fun _ => ?_⟩
      · rw [hvalue, ← two_zpow_pred_add f hf]
        congr 1
        ring
      · exact Nat.mod_eq_zero_of_dvd (dvd_pow_self 2 (by omega))
  case isFalse hcarry =>
    split
    case isTrue hinf =>
      have hlead : 2 ^ (f.prec - 1) ≤ q := hnormal.resolve_right (by omega)
      refine .inl ⟨rfl, ?_⟩
      calc (2 : ℚ) ^ (f.prec + f.maxExp) ≤ 2 ^ ((f.prec : ℤ) - 1 + u) := zpow_le_zpow_right₀ one_le_two (by omega)
        _ = (2 ^ (f.prec - 1) : ℕ) * 2 ^ u := two_zpow_pred_add f hf u
        _ ≤ q * 2 ^ u := by gcongr
    case isFalse hfin => exact .inr ⟨q, u, rfl, rfl, ⟨by omega, hmin, by omega, hnormal⟩, id⟩

/-- A significand of the format is below the value past the greatest exponent. -/
theorem Fits.value_lt {m : ℕ} {w : ℤ} (h : Fits f m w) : (m : ℚ) * 2 ^ w < 2 ^ (f.prec + f.maxExp) := by
  have hm : (m : ℚ) < (2 ^ f.prec : ℕ) := by exact_mod_cast h.lt
  calc (m : ℚ) * 2 ^ w < (2 ^ f.prec : ℕ) * 2 ^ w := by gcongr
    _ = 2 ^ (f.prec + w) := (two_zpow_prec_add f w).symm
    _ ≤ 2 ^ (f.prec + f.maxExp) := zpow_le_zpow_right₀ one_le_two (by have := h.le_maxExp; omega)

/-- Rounding is nearest among the numbers of the format, ties to even. -/
theorem RoundsAt.nearest (hf : f.Proper) (h : RoundsAt f v q u) (hq' : q' < 2 ^ f.prec) (hu' : f.minExp ≤ u') :
    |v - q * 2 ^ u| ≤ |v - q' * 2 ^ u'| ∧
      (|v - q * 2 ^ u| = |v - q' * 2 ^ u'| → (q' * 2 ^ u' : ℚ) ≠ q * 2 ^ u → q % 2 = 0) := by
  have hu : (0 : ℚ) < 2 ^ u := by positivity
  have hscale (k : ℚ) : |v - k * 2 ^ u| = |v / 2 ^ u - k| * 2 ^ u := by
    rw [← abs_of_pos hu, ← abs_mul, abs_of_pos hu, sub_mul, div_mul_cancel₀ _ hu.ne']
  have hwhole (k : ℕ) : |v - q * 2 ^ u| ≤ |v - k * 2 ^ u| ∧ (|v - q * 2 ^ u| = |v - k * 2 ^ u| → k ≠ q → q % 2 = 0) := by
    obtain ⟨hle, htie⟩ := h.rne.nearest k
    rw [hscale, hscale]
    exact ⟨by gcongr, fun heq => htie (mul_right_cancel₀ hu.ne' heq)⟩
  rcases le_or_gt u u' with hle | hlt
  · have hgrid : (q' : ℚ) * 2 ^ u' = (q' * 2 ^ (u' - u).toNat : ℕ) * 2 ^ u := by
      have hpow : (2 : ℚ) ^ u' = 2 ^ (u' - u).toNat * 2 ^ u := by
        rw [← zpow_natCast, Int.toNat_of_nonneg (by omega), ← zpow_add₀ two_ne_zero, sub_add_cancel]
      rw [hpow]
      push_cast
      ring
    rw [hgrid]
    refine ⟨(hwhole _).1, fun heq hne => (hwhole _).2 heq fun h => hne (by rw [h])⟩
  · have hlead := h.grid.le_or.resolve_right (by omega)
    have hbelow : (q' : ℚ) * 2 ^ u' < 2 ^ ((f.prec : ℤ) - 1 + u) := by
      have hcast : (q' : ℚ) < (2 ^ f.prec : ℕ) := by exact_mod_cast hq'
      calc (q' : ℚ) * 2 ^ u' < (2 ^ f.prec : ℕ) * 2 ^ u' := by gcongr
        _ = 2 ^ (f.prec + u') := (two_zpow_prec_add f u').symm
        _ ≤ 2 ^ ((f.prec : ℤ) - 1 + u) := zpow_le_zpow_right₀ one_le_two (by omega)
    have hpower := (hwhole (2 ^ (f.prec - 1))).1
    rw [← two_zpow_pred_add f hf, abs_of_nonneg (sub_nonneg.2 hlead)] at hpower
    have hfar : |v - q * 2 ^ u| < |v - q' * 2 ^ u'| := by
      rw [abs_of_nonneg (by linarith : 0 ≤ v - q' * 2 ^ u')]
      linarith
    exact ⟨hfar.le, fun heq => absurd heq hfar.ne⟩

/-- A greater magnitude does not round to a smaller one. -/
theorem Rounds.mono (hf : f.Proper) (h : Rounds f v R) (h' : Rounds f v' R') (hle : v ≤ v') : R ≤ R' := by
  obtain ⟨q, u, hat, rfl⟩ := h
  obtain ⟨q', u', hat', rfl⟩ := h'
  rcases lt_trichotomy u u' with hlt | rfl | hgt
  · have hnormal : 2 ^ (f.prec - 1) ≤ q' := (hat'.bounds hf).2.resolve_right (by have := hat.grid.minExp_le; omega)
    have hq := (hat.bounds hf).1
    calc (q : ℚ) * 2 ^ u ≤ (2 ^ f.prec : ℕ) * 2 ^ u := by gcongr
      _ = 2 ^ (f.prec + u) := (two_zpow_prec_add f u).symm
      _ ≤ 2 ^ ((f.prec : ℤ) - 1 + u') := zpow_le_zpow_right₀ one_le_two (by omega)
      _ = (2 ^ (f.prec - 1) : ℕ) * 2 ^ u' := two_zpow_pred_add f hf u'
      _ ≤ q' * 2 ^ u' := by gcongr
  · have hq : q ≤ q' := hat.rne.mono hat'.rne (by gcongr)
    gcongr
  · have hlead := hat.grid.le_or.resolve_right (by have := hat'.grid.minExp_le; omega)
    have hpow : (2 : ℚ) ^ (f.prec + u') ≤ 2 ^ ((f.prec : ℤ) - 1 + u) := zpow_le_zpow_right₀ one_le_two (by omega)
    exact absurd hat'.grid.lt (not_lt.2 (by linarith))

/-- Half a unit above the greatest finite number: the least magnitude that rounds to an infinity. -/
def FltFormat.threshold (f : FltFormat) : ℚ := (2 ^ f.prec - 1 / 2) * 2 ^ f.maxExp

theorem rounds_threshold (hf : f.Proper) : Rounds f f.threshold (2 ^ (f.prec + f.maxExp)) := by
  have hprec := hf.two_le_prec
  have htwo : (2 : ℚ) ≤ 2 ^ f.prec := by
    calc (2 : ℚ) = 2 ^ 1 := by norm_num
      _ ≤ 2 ^ f.prec := pow_le_pow_right₀ one_le_two (by omega)
  have hhalf : (2 : ℚ) ^ (f.prec - 1) * 2 = 2 ^ f.prec := by rw [← pow_succ, Nat.sub_add_cancel (by omega)]
  refine ⟨2 ^ f.prec, f.maxExp, ⟨⟨?_, hf.minExp_lt_maxExp.le, .inl ?_⟩, ?_⟩, two_zpow_prec_add f _⟩
  · rw [two_zpow_prec_add, FltFormat.threshold]
    push_cast
    gcongr
    linarith
  · rw [two_zpow_pred_add f hf, FltFormat.threshold]
    push_cast
    gcongr
    linarith
  · have habs : |f.threshold / 2 ^ f.maxExp - (2 ^ f.prec : ℕ)| = 1 / 2 := by
      rw [FltFormat.threshold, mul_div_cancel_right₀ _ (by positivity)]
      push_cast
      rw [sub_sub_cancel_left, abs_neg, abs_of_pos (by norm_num)]
    exact ⟨habs.le, fun _ => Nat.mod_eq_zero_of_dvd (dvd_pow_self 2 (by omega))⟩

/-- Below the threshold the rounded magnitude is that of a finite number: the greatest finite number is nearer than
anything past it. -/
theorem Rounds.lt_of_lt_threshold (hf : f.Proper) (h : Rounds f v R) (hv : v < f.threshold) :
    R < 2 ^ (f.prec + f.maxExp) := by
  obtain ⟨q, u, hat, rfl⟩ := h
  have hnear := (hat.nearest hf (q' := 2 ^ f.prec - 1) (u' := f.maxExp) (Nat.sub_lt (by positivity) one_pos)
    hf.minExp_lt_maxExp.le).1
  by_contra hge
  rw [not_lt, two_zpow_prec_add] at hge
  have hpos : (0 : ℚ) < 2 ^ f.maxExp := by positivity
  rw [Nat.cast_sub Nat.one_le_two_pow] at hnear
  rw [FltFormat.threshold] at hv
  push_cast at hnear hge
  have hleft : (2 : ℚ) ^ f.prec * 2 ^ f.maxExp - v ≤ |v - q * 2 ^ u| := by
    rw [abs_sub_comm]
    exact le_trans (by linarith) (le_abs_self _)
  have hright : |v - (2 ^ f.prec - 1) * 2 ^ f.maxExp| < 2 ^ f.prec * 2 ^ f.maxExp - v := by
    rw [abs_lt]
    constructor <;> linarith
  linarith

end

/-- What `roundTo` answers: an infinity exactly from the threshold on, and otherwise a number of the format that the
magnitude rounds to. -/
theorem roundTo_cases {f : FltFormat} (hf : f.Proper) (neg : Bool) {num den : ℕ} (e : ℤ) (hd : 0 < den) :
    ∃ q u, RoundsAt f (num / den * 2 ^ e) q u ∧
      ((roundTo f neg num den e = .inf neg ∧ (2 : ℚ) ^ (f.prec + f.maxExp) ≤ q * 2 ^ u) ∨
        ∃ m w, roundTo f neg num den e = .fin neg m w ∧ (m : ℚ) * 2 ^ w = q * 2 ^ u ∧ Fits f m w ∧
          (q % 2 = 0 → m % 2 = 0)) := by
  obtain ⟨q, u, hat, hpos, hzero⟩ := roundTo_eq_atGrid f neg (num := num) e hd
  refine ⟨q, u, hat, ?_⟩
  rcases eq_or_ne num 0 with rfl | hn
  · obtain ⟨rfl, rfl⟩ := hzero rfl
    exact .inr ⟨0, f.minExp, if_pos rfl, rfl, ⟨by positivity, le_rfl, hf.minExp_lt_maxExp.le, .inr rfl⟩, id⟩
  · rw [hpos hn]
    exact atGrid_cases hf hat neg

/-- Settles O52: the format's numbers lie on the rounded magnitude's grid or below its leading bit, so none is nearer. -/
theorem roundingIsToNearestTiesToEven : Obligations.RoundingIsToNearestTiesToEven := by
  intro f neg num den e hformat _ hd v
  have hf : f.Proper := by
    rcases hformat with rfl | rfl
    · exact binary32_proper
    · exact binary64_proper
  obtain ⟨q, u, hat, ⟨hinf, hge⟩ | ⟨m, w, hfin, hvalue, hfits, heven⟩⟩ := roundTo_cases hf neg (num := num) e hd
  · rw [hinf]
    refine ⟨rfl, not_lt.1 fun hlt => ?_⟩
    exact absurd (Rounds.lt_of_lt_threshold hf ⟨q, u, hat, rfl⟩ hlt) (not_lt.2 hge)
  · rw [hfin]
    refine ⟨rfl, hfits.lt, hfits.minExp_le, hfits.le_maxExp, hfits.normal, not_le.1 fun hle => ?_, fun q' u' hq' hu' => ?_⟩
    · have hmono := (rounds_threshold hf).mono hf ⟨q, u, hat, rfl⟩ hle
      exact absurd (hvalue ▸ hfits.value_lt) (not_lt.2 hmono)
    · obtain ⟨hnear, htie⟩ := hat.nearest hf hq' hu'
      rw [hvalue]
      exact ⟨hnear, fun heq hne => heven (htie heq hne)⟩

end Sys2Proof.Machine
end

section
/-! PROOFS. Multiplication and division by a positive constant keep the order of floating-point values, and so does the
final truncation: the conversions to the wire are monotone (42_convert.md rules R242 and R255). -/

namespace Sys2Proof.Machine

/-! Signed magnitudes. -/

/-- The number with this sign and magnitude. -/
def signed (neg : Bool) (v : ℚ) : ℚ := if neg then -v else v

@[simp] theorem signed_true (v : ℚ) : signed true v = -v := rfl
@[simp] theorem signed_false (v : ℚ) : signed false v = v := rfl

theorem Flt.rat_eq_signed (neg : Bool) (m : ℕ) (e : ℤ) : Flt.rat neg m e = signed neg (m * 2 ^ e) := by
  cases neg <;> simp [Flt.rat]

theorem signed_mul (neg : Bool) (v c : ℚ) : signed neg (v * c) = signed neg v * c := by
  cases neg
  · rfl
  · exact (neg_mul v c).symm

theorem signed_le (neg : Bool) {v : ℚ} (hv : 0 ≤ v) : signed neg v ≤ v := by
  cases neg
  · exact le_rfl
  · exact neg_le_self hv

theorem neg_le_signed (neg : Bool) {v : ℚ} (hv : 0 ≤ v) : -v ≤ signed neg v := by
  cases neg
  · exact neg_le_self hv
  · exact le_rfl

section
variable {f : FltFormat} {v v' R R' : ℚ}

theorem Rounds.nonneg (h : Rounds f v R) : 0 ≤ R := by
  obtain ⟨q, u, _, rfl⟩ := h
  positivity

/-- Zero rounds to zero. -/
theorem rounds_zero (f : FltFormat) : Rounds f 0 0 := by
  obtain ⟨q, u, hat, _, hzero⟩ := roundTo_eq_atGrid f false (num := 0) 0 one_pos
  obtain ⟨rfl, rfl⟩ := hzero rfl
  refine ⟨0, f.minExp, ?_, by simp⟩
  simpa using hat

/-- Rounding keeps the order of signed numbers. -/
theorem Rounds.signed_mono (hf : f.Proper) {n n' : Bool} (h : Rounds f v R) (h' : Rounds f v' R') (hv : 0 ≤ v)
    (hv' : 0 ≤ v') (hle : signed n v ≤ signed n' v') : signed n R ≤ signed n' R' := by
  have hR := h.nonneg
  have hR' := h'.nonneg
  cases n with
  | true =>
    cases n' with
    | true => exact neg_le_neg (h'.mono hf h (neg_le_neg_iff.1 hle))
    | false => exact (neg_nonpos.2 hR).trans hR'
  | false =>
    cases n' with
    | false => exact h.mono hf h' hle
    | true =>
      have hzero : v ≤ 0 ∧ v' ≤ 0 := by
        rw [signed_false, signed_true] at hle
        constructor <;> linarith
      have hR0 := h.mono hf (rounds_zero f) hzero.1
      have hR0' := h'.mono hf (rounds_zero f) hzero.2
      rw [signed_false, signed_true]
      linarith

/-- A value of the format with this sign, whose magnitude is `R`, an infinity standing for the magnitudes past the greatest
finite one. -/
def Flt.HasMagnitude (f : FltFormat) (x : Flt) (neg : Bool) (R : ℚ) : Prop :=
  (x = .inf neg ∧ (2 : ℚ) ^ (f.prec + f.maxExp) ≤ R) ∨
    ∃ m w, x = .fin neg m w ∧ (m : ℚ) * 2 ^ w = R ∧ Fits f m w

theorem roundTo_hasMagnitude (hf : f.Proper) (neg : Bool) (num : ℕ) {den : ℕ} (e : ℤ) (hd : 0 < den) :
    ∃ R, Rounds f (num / den * 2 ^ e) R ∧ (roundTo f neg num den e).HasMagnitude f neg R := by
  obtain ⟨q, u, hat, hinf | ⟨m, w, hfin, hvalue, hfits, _⟩⟩ := roundTo_cases hf neg (num := num) e hd
  · exact ⟨_, ⟨q, u, hat, rfl⟩, .inl hinf⟩
  · exact ⟨_, ⟨q, u, hat, rfl⟩, .inr ⟨m, w, hfin, hvalue, hfits⟩⟩

/-- Values of one format are in the order of their signed magnitudes. -/
theorem Flt.HasMagnitude.le {x y : Flt} {n n' : Bool} (hx : x.HasMagnitude f n R) (hy : y.HasMagnitude f n' R')
    (hR : 0 ≤ R) (hR' : 0 ≤ R') (hle : signed n R ≤ signed n' R') : x.Le y := by
  have hlow := neg_le_signed n hR
  have hhigh := signed_le n' hR'
  have hpos : (0 : ℚ) < 2 ^ (f.prec + f.maxExp) := by positivity
  rcases hx with ⟨rfl, hbig⟩ | ⟨m, w, rfl, rfl, hfits⟩ <;> rcases hy with ⟨rfl, hbig'⟩ | ⟨m', w', rfl, rfl, hfits'⟩
  · cases n with
    | true => cases n' <;> trivial
    | false =>
      cases n' with
      | false => trivial
      | true =>
        rw [signed_false, signed_true] at hle
        linarith
  · cases n with
    | true => trivial
    | false =>
      have hsmall := hfits'.value_lt
      rw [signed_false] at hle
      linarith
  · cases n' with
    | false => trivial
    | true =>
      have hsmall := hfits.value_lt
      rw [signed_true] at hle
      linarith
  · show Flt.rat n m w ≤ Flt.rat n' m' w'
    rwa [Flt.rat_eq_signed, Flt.rat_eq_signed]

end

/-! Multiplication and division by a positive constant. -/

/-- The operation `g` multiplies by `c` and rounds to the format. -/
structure Scales (f : FltFormat) (c : ℚ) (g : Flt → Flt) : Prop where
  nan : g .nan = .nan
  inf : ∀ neg, g (.inf neg) = .inf neg
  fin : ∀ neg (m : ℕ) (e : ℤ), ∃ R, Rounds f (m * 2 ^ e * c) R ∧ (g (.fin neg m e)).HasMagnitude f neg R

section
variable {f : FltFormat} {m₂ : ℕ} {e₂ : ℤ}

theorem scales_fltMul (hf : f.Proper) (hm : 0 < m₂) :
    Scales f (m₂ * 2 ^ e₂) fun x => fltMul f x (.fin false m₂ e₂) where
  nan := rfl
  inf neg := by simp [fltMul, hm.ne']
  fin neg m e := by
    have hvalue : ((m * m₂ : ℕ) : ℚ) / (1 : ℕ) * 2 ^ (e + e₂) = m * 2 ^ e * (m₂ * 2 ^ e₂) := by
      rw [zpow_add₀ two_ne_zero]
      push_cast
      ring
    have hround := roundTo_hasMagnitude hf (neg != false) (m * m₂) (e + e₂) one_pos
    rw [hvalue, Bool.bne_false] at hround
    simpa only [fltMul, Bool.bne_false] using hround

theorem scales_fltDiv (hf : f.Proper) (hm : 0 < m₂) :
    Scales f (m₂ * 2 ^ e₂ : ℚ)⁻¹ fun x => fltDiv f x (.fin false m₂ e₂) where
  nan := rfl
  inf neg := by simp [fltDiv]
  fin neg m e := by
    have hvalue : (m : ℚ) / m₂ * 2 ^ (e - e₂) = m * 2 ^ e * (m₂ * 2 ^ e₂ : ℚ)⁻¹ := by
      rw [zpow_sub₀ two_ne_zero, mul_inv]
      ring
    have hround := roundTo_hasMagnitude hf (neg != false) m (e - e₂) hm
    rw [hvalue, Bool.bne_false] at hround
    simpa only [fltDiv, Bool.bne_false, if_neg hm.ne'] using hround

variable {c : ℚ} {g : Flt → Flt} {x y : Flt}

theorem Flt.le_of_inf_true (h : y ≠ .nan) : (Flt.inf true).Le y := by
  cases y with
  | nan => exact absurd rfl h
  | inf neg => cases neg <;> trivial
  | fin _ _ _ => trivial

theorem Flt.le_inf_false (h : x ≠ .nan) : x.Le (.inf false) := by
  cases x with
  | nan => exact absurd rfl h
  | inf neg => cases neg <;> trivial
  | fin _ _ _ => trivial

theorem Scales.ne_nan (hg : Scales f c g) (h : x ≠ .nan) : g x ≠ .nan := by
  cases x with
  | nan => exact absurd rfl h
  | inf neg => simp [hg.inf]
  | fin neg m e =>
    obtain ⟨R, _, ⟨hinf, _⟩ | ⟨m', w, hfin, _⟩⟩ := hg.fin neg m e
    · simp [hinf]
    · simp [hfin]

/-- Scaling by a positive constant keeps the order. -/
theorem Scales.le (hf : f.Proper) (hg : Scales f c g) (hc : 0 ≤ c) (h : x.Le y) : (g x).Le (g y) := by
  cases x with
  | nan => exact h.elim
  | inf neg =>
    cases neg with
    | true =>
      rw [hg.inf]
      refine Flt.le_of_inf_true (hg.ne_nan ?_)
      rintro rfl
      exact h.elim
    | false =>
      cases y with
      | nan | fin _ _ _ => exact h.elim
      | inf neg => rwa [hg.inf, hg.inf]
  | fin n m e =>
    cases y with
    | nan => exact h.elim
    | inf neg =>
      cases neg with
      | true => exact h.elim
      | false =>
        rw [hg.inf]
        exact Flt.le_inf_false (hg.ne_nan nofun)
    | fin n' m' e' =>
      obtain ⟨R, hR, hx⟩ := hg.fin n m e
      obtain ⟨R', hR', hy⟩ := hg.fin n' m' e'
      refine hx.le hy hR.nonneg hR'.nonneg (hR.signed_mono hf hR' (by positivity) (by positivity) ?_)
      change Flt.rat n m e ≤ Flt.rat n' m' e' at h
      rw [Flt.rat_eq_signed, Flt.rat_eq_signed] at h
      rw [signed_mul n _ c, signed_mul n' _ c]
      gcongr

end

/-! Truncation. -/

theorem truncMagnitude_eq_floor (m : ℕ) (e : ℤ) : truncMagnitude m e = ⌊(m : ℚ) * 2 ^ e⌋₊ := by
  have hquot : (m : ℚ) * 2 ^ e = ((m * 2 ^ e.toNat : ℕ) : ℚ) / (2 ^ (-e).toNat : ℕ) := by
    rw [two_zpow_eq, Nat.cast_mul, mul_div_assoc]
  rw [hquot, Nat.floor_div_eq_div]
  rfl

/-- A saturated sample is the sign and the lesser of the truncated magnitude and the bound. -/
theorem satTrunc16_fin (neg : Bool) (m : ℕ) (e : ℤ) :
    satTrunc16 (.fin neg m e) =
      if neg then -(min 32768 (truncMagnitude m e) : ℤ) else min 32767 (truncMagnitude m e) := by
  simp only [satTrunc16]
  split_ifs <;> omega

/-- Truncation and saturation keep the order. -/
theorem satTrunc16_mono {x y : Flt} (h : x.Le y) : satTrunc16 x ≤ satTrunc16 y := by
  cases x with
  | nan => exact h.elim
  | inf neg =>
    cases neg with
    | true => exact (satTrunc16_bounds y).1
    | false =>
      cases y with
      | nan | fin _ _ _ => exact h.elim
      | inf neg =>
        cases neg with
        | true => exact h.elim
        | false => exact le_rfl
  | fin n m e =>
    cases y with
    | nan => exact h.elim
    | inf neg =>
      cases neg with
      | true => exact h.elim
      | false => exact (satTrunc16_bounds _).2
    | fin n' m' e' =>
      change Flt.rat n m e ≤ Flt.rat n' m' e' at h
      rw [Flt.rat_eq_signed, Flt.rat_eq_signed] at h
      have hpos : 0 ≤ (m : ℚ) * 2 ^ e := by positivity
      have hpos' : 0 ≤ (m' : ℚ) * 2 ^ e' := by positivity
      rw [satTrunc16_fin, satTrunc16_fin, truncMagnitude_eq_floor, truncMagnitude_eq_floor]
      cases n with
      | true =>
        cases n' with
        | true =>
          have := Nat.floor_mono (neg_le_neg_iff.1 h)
          simp only [if_true]
          omega
        | false =>
          simp only [if_true, Bool.false_eq_true, if_false]
          omega
      | false =>
        cases n' with
        | false =>
          rw [signed_false, signed_false] at h
          have := Nat.floor_mono h
          simp only [Bool.false_eq_true, if_false]
          omega
        | true =>
          rw [signed_false, signed_true] at h
          have hzero : ⌊(m : ℚ) * 2 ^ e⌋₊ = 0 := Nat.floor_of_nonpos (by linarith)
          have hzero' : ⌊(m' : ℚ) * 2 ^ e'⌋₊ = 0 := Nat.floor_of_nonpos (by linarith)
          simp [hzero, hzero']

/-! The constants of the conversions (rule R241). -/

theorem g64_eq : g64 = .fin false 5520653160719109 (-49) := by decide
theorem r2d64_eq : r2d64 = .fin false 8063664102031864 (-47) := by decide
theorem d2r64_eq : d2r64 = .fin false 5030569068109113 (-58) := by decide
theorem k64_eq : k64 = .fin false 4616189618054758 (-48) := by decide

/-- The four constants as rational numbers. -/
def g64Value : ℚ := 5520653160719109 / 2 ^ 49
def r2d64Value : ℚ := 8063664102031864 / 2 ^ 47
def d2r64Value : ℚ := 5030569068109113 / 2 ^ 58
def k64Value : ℚ := 4616189618054758 / 2 ^ 48

theorem scales_mul_accelLsb64 : Scales binary64 2048 fun x => fltMul binary64 x accelLsb64 := by
  simpa [accelLsb64] using scales_fltMul (m₂ := 2048) (e₂ := 0) binary64_proper (by decide)

theorem scales_div_accelLsb64 : Scales binary64 2048⁻¹ fun x => fltDiv binary64 x accelLsb64 := by
  simpa [accelLsb64] using scales_fltDiv (m₂ := 2048) (e₂ := 0) binary64_proper (by decide)

theorem scales_mul_g64 : Scales binary64 g64Value fun x => fltMul binary64 x g64 := by
  rw [g64_eq]
  exact scales_fltMul (m₂ := 5520653160719109) (e₂ := -49) binary64_proper (by decide)

theorem scales_div_g64 : Scales binary64 g64Value⁻¹ fun x => fltDiv binary64 x g64 := by
  rw [g64_eq]
  exact scales_fltDiv (m₂ := 5520653160719109) (e₂ := -49) binary64_proper (by decide)

theorem scales_mul_r2d64 : Scales binary64 r2d64Value fun x => fltMul binary64 x r2d64 := by
  rw [r2d64_eq]
  exact scales_fltMul (m₂ := 8063664102031864) (e₂ := -47) binary64_proper (by decide)

theorem scales_mul_d2r64 : Scales binary64 d2r64Value fun x => fltMul binary64 x d2r64 := by
  rw [d2r64_eq]
  exact scales_fltMul (m₂ := 5030569068109113) (e₂ := -58) binary64_proper (by decide)

theorem scales_mul_k64 : Scales binary64 k64Value fun x => fltMul binary64 x k64 := by
  rw [k64_eq]
  exact scales_fltMul (m₂ := 4616189618054758) (e₂ := -48) binary64_proper (by decide)

theorem scales_div_k64 : Scales binary64 k64Value⁻¹ fun x => fltDiv binary64 x k64 := by
  rw [k64_eq]
  exact scales_fltDiv (m₂ := 4616189618054758) (e₂ := -48) binary64_proper (by decide)

/-- Settles O53: each conversion scales by two positive constants and then truncates. -/
theorem conversionsToTheWireAreMonotone : Obligations.ConversionsToTheWireAreMonotone := by
  intro x y h
  have hscaled := scales_mul_accelLsb64.le binary64_proper (by norm_num) h
  have hdegrees := scales_mul_r2d64.le binary64_proper (by norm_num [r2d64Value]) h
  exact ⟨satTrunc16_mono (scales_div_g64.le binary64_proper (by norm_num [g64Value]) hscaled),
    satTrunc16_mono (scales_mul_k64.le binary64_proper (by norm_num [k64Value]) hdegrees)⟩

end Sys2Proof.Machine
end

section
/-! PROOFS. Special values and signs of the conversions (42_convert.md rules R242 and R250 to R255): NaNs, zeros,
infinities, the worked examples, and the host functions' oddness. -/

namespace Sys2Proof.Machine

/-! NaNs and zeros on the way to the wire. -/

theorem fromBits32_nan {x : Word} (hexp : x.extractLsb' 23 8 = 0xFF) (hfrac : x.extractLsb' 0 23 ≠ 0) :
    fromBits32 x = .nan := by
  have hexp' : (x.extractLsb' 23 8).toNat = 255 := by rw [hexp]; rfl
  have hfrac' : (x.extractLsb' 0 23).toNat ≠ 0 := fun h => hfrac (BitVec.eq_of_toNat_eq h)
  rw [fromBits32, if_pos hexp', if_neg hfrac']

theorem toWire_of_nan {x : Word} (h : fromBits32 x = .nan) : accelToWire x = 0 ∧ gyroToWire x = 0 := by
  rw [accelToWire, gyroToWire, h]
  exact ⟨rfl, rfl⟩

theorem fltMul_zero (f : FltFormat) (neg : Bool) (e : ℤ) (m₂ : ℕ) (e₂ : ℤ) :
    fltMul f (.fin neg 0 e) (.fin false m₂ e₂) = .fin neg 0 f.minExp := by
  simp [fltMul, roundTo]

theorem fltDiv_zero (f : FltFormat) (neg : Bool) (e : ℤ) {m₂ : ℕ} (e₂ : ℤ) (hm : m₂ ≠ 0) :
    fltDiv f (.fin neg 0 e) (.fin false m₂ e₂) = .fin neg 0 f.minExp := by
  simp [fltDiv, roundTo, hm]

theorem satTrunc16_zero (neg : Bool) (e : ℤ) : satTrunc16 (.fin neg 0 e) = 0 := by
  simp [satTrunc16_fin, truncMagnitude]

/-- A zero of either sign encodes as 0. -/
theorem toWire_of_zero {x : Word} {neg : Bool} {e : ℤ} (h : fromBits32 x = .fin neg 0 e) :
    accelToWire x = 0 ∧ gyroToWire x = 0 := by
  rw [accelToWire, gyroToWire, h, g64_eq, r2d64_eq, k64_eq, accelLsb64, fltMul_zero, fltDiv_zero _ _ _ _ (by decide),
    fltMul_zero, fltMul_zero]
  exact ⟨satTrunc16_zero _ _, satTrunc16_zero _ _⟩

theorem toWire_of_inf {x : Word} {neg : Bool} (h : fromBits32 x = .inf neg) :
    accelToWire x = satTrunc16 (.inf neg) ∧ gyroToWire x = satTrunc16 (.inf neg) := by
  rw [accelToWire, gyroToWire, h]
  exact ⟨congrArg _ ((congrArg (fltDiv binary64 · g64) (scales_mul_accelLsb64.inf neg)).trans (scales_div_g64.inf neg)),
    congrArg _ ((congrArg (fltMul binary64 · k64) (scales_mul_r2d64.inf neg)).trans (scales_mul_k64.inf neg))⟩

/-! Signs. -/

/-- The value with the other sign. -/
def Flt.negate : Flt → Flt
  | .nan => .nan
  | .inf neg => .inf (!neg)
  | .fin neg m e => .fin (!neg) m e

theorem roundTo_not (f : FltFormat) (neg : Bool) (num den : ℕ) (e : ℤ) :
    roundTo f (!neg) num den e = (roundTo f neg num den e).negate := by
  simp only [roundTo]
  split_ifs <;> rfl

section
variable {x : Flt} (f : FltFormat) {m₂ : ℕ} {e₂ : ℤ}

theorem fltMul_negate : fltMul f x.negate (.fin false m₂ e₂) = (fltMul f x (.fin false m₂ e₂)).negate := by
  cases x with
  | nan => rfl
  | inf neg =>
    simp only [Flt.negate, fltMul, Bool.bne_false]
    split <;> rfl
  | fin neg m e => simp only [Flt.negate, fltMul, Bool.bne_false, roundTo_not]

theorem fltDiv_negate (hm : m₂ ≠ 0) :
    fltDiv f x.negate (.fin false m₂ e₂) = (fltDiv f x (.fin false m₂ e₂)).negate := by
  cases x with
  | nan => rfl
  | inf neg => simp only [Flt.negate, fltDiv, Bool.bne_false]
  | fin neg m e => simp only [Flt.negate, fltDiv, Bool.bne_false, if_neg hm, roundTo_not]

theorem fltRound_negate : fltRound f x.negate = (fltRound f x).negate := by
  cases x with
  | nan | inf _ => rfl
  | fin neg m e => exact roundTo_not f neg m 1 e

end

theorem ofBool_not_append (b : Bool) (w : BitVec 31) :
    BitVec.ofBool (!b) ++ w = (BitVec.ofBool b ++ w) ^^^ (0x80000000 : Word) := by
  rw [show (0x80000000 : Word) = BitVec.ofBool true ++ 0#31 from rfl, BitVec.xor_append, BitVec.xor_zero]
  cases b <;> rfl

/-- The encoding of the value with the other sign has the other sign bit. -/
theorem bits32_negate {x : Flt} (h : x ≠ .nan) : bits32 x.negate = bits32 x ^^^ 0x80000000 := by
  cases x with
  | nan => exact absurd rfl h
  | inf neg => exact ofBool_not_append neg _
  | fin neg m e =>
    simp only [Flt.negate, bits32]
    split <;> exact ofBool_not_append neg _

theorem fltOfInt_neg {i : ℤ} (h : i ≠ 0) : fltOfInt (-i) = (fltOfInt i).negate := by
  have hsign : decide (-i < 0) = !decide (i < 0) := by
    rw [← decide_not]
    exact decide_eq_decide.2 (by omega)
  rw [fltOfInt, fltOfInt, Flt.negate, hsign, Int.natAbs_neg]

theorem scales_fltRound {f : FltFormat} (hf : f.Proper) : Scales f 1 (fltRound f) where
  nan := rfl
  inf _ := rfl
  fin neg m e := by
    have hround := roundTo_hasMagnitude hf neg m e one_pos
    rw [Nat.cast_one, div_one] at hround
    rw [mul_one]
    exact hround

/-- The conversions to host floats before encoding (rule R242). -/
def accelHostValue (i : ℤ) : Flt :=
  fltRound binary32 (fltDiv binary64 (fltMul binary64 (fltOfInt i) g64) accelLsb64)

def gyroHostValue (i : ℤ) : Flt :=
  fltRound binary32 (fltMul binary64 (fltDiv binary64 (fltOfInt i) k64) d2r64)

theorem accelToHost_eq (r : Half) : accelToHost r = bits32 (accelHostValue r.toInt) := rfl
theorem gyroToHost_eq (r : Half) : gyroToHost r = bits32 (gyroHostValue r.toInt) := rfl

theorem accelHostValue_neg {i : ℤ} (h : i ≠ 0) : accelHostValue (-i) = (accelHostValue i).negate := by
  rw [accelHostValue, fltOfInt_neg h, g64_eq, fltMul_negate, accelLsb64, fltDiv_negate _ (by decide), fltRound_negate,
    accelHostValue, g64_eq, accelLsb64]

theorem gyroHostValue_neg {i : ℤ} (h : i ≠ 0) : gyroHostValue (-i) = (gyroHostValue i).negate := by
  rw [gyroHostValue, fltOfInt_neg h, k64_eq, fltDiv_negate _ (by decide), d2r64_eq, fltMul_negate, fltRound_negate,
    gyroHostValue, k64_eq, d2r64_eq]

theorem accelHostValue_ne_nan (i : ℤ) : accelHostValue i ≠ .nan :=
  (scales_fltRound binary32_proper).ne_nan (scales_div_accelLsb64.ne_nan (scales_mul_g64.ne_nan nofun))

theorem gyroHostValue_ne_nan (i : ℤ) : gyroHostValue i ≠ .nan :=
  (scales_fltRound binary32_proper).ne_nan (scales_mul_d2r64.ne_nan (scales_div_k64.ne_nan nofun))

/-- The host functions are odd: negating a sample, the least one aside, flips the sign bit. -/
theorem toHost_neg {r : Half} (h0 : r ≠ 0) (hmin : r ≠ 0x8000) :
    accelToHost (-r) = accelToHost r ^^^ 0x80000000 ∧ gyroToHost (-r) = gyroToHost r ^^^ 0x80000000 := by
  have hne : r.toInt ≠ 0 := fun h => h0 (BitVec.eq_of_toInt_eq h)
  have hneg : (-r).toInt = -r.toInt := BitVec.toInt_neg_of_ne_intMin hmin
  rw [accelToHost_eq, accelToHost_eq, gyroToHost_eq, gyroToHost_eq, hneg, accelHostValue_neg hne, gyroHostValue_neg hne]
  exact ⟨bits32_negate (accelHostValue_ne_nan _), bits32_negate (gyroHostValue_ne_nan _)⟩

/-! Encoding and decoding a binary32 value. -/

/-- Encoding a number of the format and reading it back gives the same number. -/
theorem fromBits32_bits32 {neg : Bool} {m : ℕ} {e : ℤ} (h : Fits binary32 m e) :
    fromBits32 (bits32 (.fin neg m e)) = .fin neg m e := by
  have hm : m < 2 ^ 24 := h.lt
  have hmin : -149 ≤ e := h.minExp_le
  have hmax : e ≤ 104 := h.le_maxExp
  have hnormal : 2 ^ 23 ≤ m ∨ e = -149 := h.normal
  have hfields (ex : BitVec 8) (fr : BitVec 23) :
      (BitVec.ofBool neg ++ (ex ++ fr) : Word).getLsbD 31 = neg ∧
        ((BitVec.ofBool neg ++ (ex ++ fr) : Word).extractLsb' 23 8).toNat = ex.toNat ∧
        ((BitVec.ofBool neg ++ (ex ++ fr) : Word).extractLsb' 0 23).toNat = fr.toNat := by
    have hex := ex.isLt
    have hfr := fr.isLt
    refine ⟨?_, ?_, ?_⟩
    · rw [BitVec.getLsbD_append, if_neg (by decide)]
      cases neg <;> rfl
    · rw [toNat_extract_eq, toNat_append_eq, toNat_append_eq]
      omega
    · rw [toNat_extract_eq, toNat_append_eq, toNat_append_eq]
      omega
  rw [bits32]
  split
  case isTrue hsub =>
    have he : e = -149 := hnormal.resolve_left (by omega)
    obtain ⟨hsign, hex, hfr⟩ := hfields 0#8 (BitVec.ofNat 23 m)
    rw [BitVec.toNat_ofNat, Nat.mod_eq_of_lt hsub] at hfr
    simp only [fromBits32, hsign, hex, hfr, he]
    rfl
  case isFalse hlead =>
    obtain ⟨hsign, hex, hfr⟩ := hfields (BitVec.ofNat 8 (e + 150).toNat) (BitVec.ofNat 23 (m - 2 ^ 23))
    rw [BitVec.toNat_ofNat, Nat.mod_eq_of_lt (by omega)] at hex hfr
    simp only [fromBits32, hsign, hex, hfr]
    rw [if_neg (by omega), if_neg (by omega), Nat.add_sub_cancel' (by omega), Int.toNat_of_nonneg (by omega)]
    congr 1
    omega

/-- The least magnitude of a binary32 value that is not 0. -/
theorem fromBits32_magnitude {x : Word} {neg : Bool} {m : ℕ} {e : ℤ} (h : fromBits32 x = .fin neg m e) :
    (m : ℚ) * 2 ^ e = 0 ∨ 1 / 2 ^ 149 ≤ (m : ℚ) * 2 ^ e := by
  have he : -149 ≤ e := by
    simp only [fromBits32] at h
    split_ifs at h with hmax hfrac hzero
    · cases h
      exact le_rfl
    · cases h
      omega
  rcases Nat.eq_zero_or_pos m with rfl | hm
  · exact .inl (by simp)
  · right
    have hone : (1 : ℚ) ≤ m := by exact_mod_cast hm
    calc (1 : ℚ) / 2 ^ 149 = 1 * 2 ^ (-149 : ℤ) := by norm_num
      _ ≤ m * 2 ^ e := mul_le_mul hone (zpow_le_zpow_right₀ one_le_two he) (by positivity) (by positivity)

end Sys2Proof.Machine
end

section
/-! PROOFS. How near the conversions are to multiplication by one LSB: every rounding has a small relative error, so the
host functions are strictly increasing and a round trip stays within one LSB (42_convert.md rule R255). -/

namespace Sys2Proof.Machine

/-! Relative errors. -/

/-- `x` is `y` up to the relative error `δ`. -/
def Approx {α : Type} [Field α] [LinearOrder α] (δ x y : α) : Prop := |x - y| ≤ δ * y

section
variable {α : Type} [Field α] [LinearOrder α] [IsStrictOrderedRing α] {δ δ' x y z c : α}

theorem Approx.mul_right (h : Approx δ x y) (hc : 0 ≤ c) : Approx δ (x * c) (y * c) := by
  rw [Approx, ← sub_mul, abs_mul, abs_of_nonneg hc, ← mul_assoc]
  exact mul_le_mul_of_nonneg_right h hc

theorem Approx.le (h : Approx δ x y) : x ≤ (1 + δ) * y := by
  have := (abs_le.1 h).2
  linarith

theorem Approx.ge (h : Approx δ x y) : (1 - δ) * y ≤ x := by
  have := (abs_le.1 h).1
  linarith

theorem Approx.mono (h : Approx δ x y) (hδ : δ ≤ δ') (hy : 0 ≤ y) : Approx δ' x y :=
  h.trans (mul_le_mul_of_nonneg_right hδ hy)

/-- Relative errors add up, but for their product. -/
theorem Approx.trans (h : Approx δ x y) (h' : Approx δ' y z) (hδ : 0 ≤ δ) : Approx (δ + δ' + δ * δ') x z := by
  have hy := mul_le_mul_of_nonneg_left h'.le hδ
  calc |x - z| ≤ |x - y| + |y - z| := abs_sub_le _ _ _
    _ ≤ δ * y + δ' * z := add_le_add h h'
    _ ≤ (δ + δ' + δ * δ') * z := by linarith

theorem Approx.nonneg (h : Approx δ x y) (hδ : δ ≤ 1) (hy : 0 ≤ y) : 0 ≤ x :=
  le_trans (mul_nonneg (sub_nonneg.2 hδ) hy) h.ge

end

theorem Approx.cast {δ x y : ℚ} (h : Approx δ x y) : Approx (δ : ℝ) x y := by
  unfold Approx at h ⊢
  exact_mod_cast h

/-! Magnitudes far from the ends of the formats. -/

/-- `v` is 0 or lies from 2^-n to 2^n. -/
def InRange (n : ℕ) (v : ℚ) : Prop := v = 0 ∨ (1 / 2 ^ n ≤ v ∧ v ≤ 2 ^ n)

section
variable {n k : ℕ} {v c x δ : ℚ}

theorem InRange.nonneg (h : InRange n v) : 0 ≤ v := by
  rcases h with rfl | ⟨hlow, _⟩
  · exact le_rfl
  · exact le_trans (by positivity) hlow

theorem InRange.mul (hv : InRange n v) (hc : InRange k c) : InRange (n + k) (v * c) := by
  rcases hv with rfl | ⟨hlow, hhigh⟩
  · exact .inl (zero_mul c)
  rcases hc with rfl | ⟨hlow', hhigh'⟩
  · exact .inl (mul_zero v)
  have hv : 0 ≤ v := le_trans (by positivity) hlow
  refine .inr ⟨?_, ?_⟩
  · rw [pow_add, ← one_div_mul_one_div]
    exact mul_le_mul hlow hlow' (by positivity) hv
  · rw [pow_add]
    exact mul_le_mul hhigh hhigh' (le_trans (by positivity) hlow') (by positivity)

theorem InRange.of_approx (hv : InRange n v) (h : Approx δ x v) (hδ : δ ≤ 1 / 2) : InRange (n + 1) x := by
  have hle := (h.mono hδ hv.nonneg).le
  have hge := (h.mono hδ hv.nonneg).ge
  rcases hv with rfl | ⟨hlow, hhigh⟩
  · exact .inl (le_antisymm (by linarith) (by linarith))
  · refine .inr ⟨?_, ?_⟩
    · rw [pow_succ, ← div_div]
      linarith
    · rw [pow_succ]
      linarith

end

/-! The relative error of one operation. -/

section
variable {f : FltFormat} {v R c : ℚ} {g : Flt → Flt} {n : ℕ}

/-- The relative error of rounding a magnitude that has its leading bit above the least exponent. -/
theorem Rounds.approx (h : Rounds f v R) (hv : v = 0 ∨ (2 : ℚ) ^ ((f.prec : ℤ) - 1 + f.minExp) ≤ v) (hf : f.Proper) :
    Approx (1 / 2 ^ f.prec) R v := by
  rcases hv with rfl | hv
  · have hzero : R = 0 := le_antisymm (h.mono hf (rounds_zero f) le_rfl) h.nonneg
    rw [hzero, Approx]
    simp
  obtain ⟨q, u, hat, rfl⟩ := h
  have hlead : (2 : ℚ) ^ ((f.prec : ℤ) - 1 + u) ≤ v := hat.grid.le_or.elim id fun hu => hu ▸ hv
  have hu : (0 : ℚ) < 2 ^ u := by positivity
  have hscale : |q * 2 ^ u - v| = |v / 2 ^ u - q| * 2 ^ u := by
    rw [abs_sub_comm, ← abs_of_pos hu, ← abs_mul, abs_of_pos hu, sub_mul, div_mul_cancel₀ _ hu.ne']
  have hulp : (2 : ℚ) ^ ((f.prec : ℤ) - 1 + u) = 2 ^ f.prec * (1 / 2 * 2 ^ u) := by
    rw [zpow_add₀ two_ne_zero, zpow_sub₀ two_ne_zero, zpow_natCast, zpow_one]
    ring
  rw [Approx, hscale, one_div_mul_eq_div, le_div_iff₀ (by positivity)]
  calc |v / 2 ^ u - q| * 2 ^ u * 2 ^ f.prec ≤ 1 / 2 * 2 ^ u * 2 ^ f.prec := by
        gcongr
        exact hat.rne.1
    _ = 2 ^ ((f.prec : ℤ) - 1 + u) := by rw [hulp]; ring
    _ ≤ v := hlead

/-- The magnitudes within 2^-n and 2^n are inside the format's exponents. -/
structure FltFormat.Covers (f : FltFormat) (n : ℕ) : Prop where
  proper : f.Proper
  minExp_le : (f.prec : ℤ) - 1 + f.minExp ≤ -n
  lt_maxExp : (n : ℤ) < f.prec - 1 + f.maxExp

theorem binary64_covers {n : ℕ} (h : n ≤ 1000) : binary64.Covers n :=
  ⟨binary64_proper, by simp only [binary64]; omega, by simp only [binary64]; omega⟩

theorem binary32_covers {n : ℕ} (h : n ≤ 100) : binary32.Covers n :=
  ⟨binary32_proper, by simp only [binary32]; omega, by simp only [binary32]; omega⟩

/-- An operation that scales a magnitude inside the format's range gives a finite number, with a small relative error. -/
theorem Scales.approx (hg : Scales f c g) (hf : f.Covers n) (neg : Bool) (m : ℕ) (e : ℤ)
    (hv : InRange n (m * 2 ^ e * c)) :
    ∃ (m' : ℕ) (e' : ℤ), g (.fin neg m e) = .fin neg m' e' ∧ Fits f m' e' ∧
      Approx (1 / 2 ^ f.prec : ℚ) (m' * 2 ^ e') (m * 2 ^ e * c) := by
  obtain ⟨R, hR, hmag⟩ := hg.fin neg m e
  have hlow : (m : ℚ) * 2 ^ e * c = 0 ∨ (2 : ℚ) ^ ((f.prec : ℤ) - 1 + f.minExp) ≤ m * 2 ^ e * c := by
    refine hv.imp_right fun ⟨hlow, _⟩ => le_trans ?_ hlow
    rw [one_div, ← zpow_natCast, ← zpow_neg]
    exact zpow_le_zpow_right₀ one_le_two hf.minExp_le
  have hhigh : (m : ℚ) * 2 ^ e * c < f.threshold := by
    have hle : (m : ℚ) * 2 ^ e * c ≤ 2 ^ n := by
      rcases hv with hzero | ⟨_, hhigh⟩
      · rw [hzero]
        positivity
      · exact hhigh
    have hone : (1 : ℚ) ≤ 2 ^ (f.prec - 1) := one_le_pow₀ one_le_two
    have hhalf : (2 : ℚ) ^ (f.prec - 1) * 2 = 2 ^ f.prec := by
      rw [← pow_succ, Nat.sub_add_cancel (by have := hf.proper.two_le_prec; omega)]
    calc (m : ℚ) * 2 ^ e * c ≤ 2 ^ (n : ℤ) := by rwa [zpow_natCast]
      _ < 2 ^ ((f.prec : ℤ) - 1 + f.maxExp) := zpow_lt_zpow_right₀ one_lt_two hf.lt_maxExp
      _ = (2 ^ (f.prec - 1) : ℕ) * 2 ^ f.maxExp := two_zpow_pred_add f hf.proper _
      _ ≤ f.threshold := by
        rw [FltFormat.threshold]
        push_cast
        gcongr
        linarith
  rcases hmag with ⟨_, hbig⟩ | ⟨m', e', heq, rfl, hfits⟩
  · exact absurd (hR.lt_of_lt_threshold hf.proper hhigh) (not_lt.2 hbig)
  · exact ⟨m', e', heq, hfits, hR.approx hlow hf.proper⟩

end

/-- Two scalings in binary64, one after the other. -/
theorem scales_twice {c₁ c₂ : ℚ} {g₁ g₂ : Flt → Flt} (h₁ : Scales binary64 c₁ g₁) (h₂ : Scales binary64 c₂ g₂)
    (hc₁ : InRange 12 c₁) (hc₂ : InRange 12 c₂) {n : ℕ} (hn : n ≤ 900) (neg : Bool) (m : ℕ) (e : ℤ)
    (hv : InRange n (m * 2 ^ e)) :
    ∃ (m' : ℕ) (e' : ℤ), g₂ (g₁ (.fin neg m e)) = .fin neg m' e' ∧ InRange (n + 26) (m' * 2 ^ e') ∧
      Approx (17 / 2 ^ 56 : ℚ) (m' * 2 ^ e') (m * 2 ^ e * (c₁ * c₂)) := by
  have hv₁ := hv.mul hc₁
  obtain ⟨m₁, e₁, heq₁, _, happrox₁⟩ := h₁.approx (binary64_covers (by omega)) neg m e hv₁
  have hv₂ := (hv₁.of_approx happrox₁ (by norm_num [binary64])).mul hc₂
  obtain ⟨m₂, e₂, heq₂, _, happrox₂⟩ := h₂.approx (binary64_covers (by omega)) neg m₁ e₁ hv₂
  refine ⟨m₂, e₂, by rw [heq₁, heq₂], hv₂.of_approx happrox₂ (by norm_num [binary64]), ?_⟩
  have hboth := happrox₂.trans (happrox₁.mul_right hc₂.nonneg) (by positivity)
  rw [mul_assoc (_ * _)] at hboth
  exact hboth.mono (by norm_num [binary64]) (mul_nonneg hv.nonneg (mul_nonneg hc₁.nonneg hc₂.nonneg))

/-! The two conversions as multiplications by one LSB. -/

/-- The two conversions of one sensor are division and multiplication by the LSB `L`, up to small relative errors, one of
them followed by the truncation. -/
structure Converts (toWire : Word → Int) (toHost : Half → Word) (L : ℝ) : Prop where
  pos : 0 < L
  le_one : L ≤ 1
  wire : ∀ (x : Word) (neg : Bool) (m : ℕ) (e : ℤ), fromBits32 x = .fin neg m e → (m * 2 ^ e : ℚ) ≤ 2 ^ 20 →
    ∃ (m' : ℕ) (e' : ℤ), toWire x = satTrunc16 (.fin neg m' e') ∧
      Approx (50 / 2 ^ 56 : ℝ) ((m' * 2 ^ e' : ℚ) * L) (m * 2 ^ e : ℚ)
  host : ∀ r : Half, ∃ (m : ℕ) (e : ℤ), fromBits32 (toHost r) = .fin (r.toInt < 0) m e ∧
    Approx (1 / 2 ^ 24 + 50 / 2 ^ 56 : ℝ) (m * 2 ^ e : ℚ) (r.toInt.natAbs * L)

/-- Conversions that scale twice in binary64, by constants whose product is the LSB or its inverse up to 2^-51. -/
theorem converts_of_scales {a₁ a₂ b₁ b₂ : ℚ} {g₁ g₂ h₁ h₂ : Flt → Flt} {L : ℝ} (hg₁ : Scales binary64 a₁ g₁)
    (hg₂ : Scales binary64 a₂ g₂) (hh₁ : Scales binary64 b₁ h₁) (hh₂ : Scales binary64 b₂ h₂) (ha₁ : InRange 12 a₁)
    (ha₂ : InRange 12 a₂) (hb₁ : InRange 12 b₁) (hb₂ : InRange 12 b₂) (hL : 0 < L) (hL1 : L ≤ 1)
    (ha : Approx (1 / 2 ^ 51 : ℝ) ((a₁ * a₂ : ℚ) * L) 1) (hb : Approx (1 / 2 ^ 51 : ℝ) (b₁ * b₂ : ℚ) L) :
    Converts (fun x => satTrunc16 (g₂ (g₁ (fromBits32 x))))
      (fun r => bits32 (fltRound binary32 (h₂ (h₁ (fltOfInt r.toInt))))) L where
  pos := hL
  le_one := hL1
  wire x neg m e hx hle := by
    have hrange : InRange 149 (m * 2 ^ e) :=
      (fromBits32_magnitude hx).imp_right fun hlow => ⟨hlow, hle.trans (by norm_num)⟩
    obtain ⟨m', e', heq, _, happrox⟩ := scales_twice hg₁ hg₂ ha₁ ha₂ (by decide) neg m e hrange
    have hvalue : (0 : ℝ) ≤ (m * 2 ^ e : ℚ) := by exact_mod_cast hrange.nonneg
    have hscaled := happrox.cast.mul_right hL.le
    have hunit := ha.mul_right hvalue
    rw [one_mul] at hunit
    rw [show ((m * 2 ^ e * (a₁ * a₂) : ℚ) : ℝ) * L = (a₁ * a₂ : ℚ) * L * (m * 2 ^ e : ℚ) by push_cast; ring] at hscaled
    refine ⟨m', e', by rw [hx, heq], (hscaled.trans hunit (by norm_num)).mono (by norm_num) hvalue⟩
  host r := by
    have hmag : (r.toInt.natAbs : ℚ) * 2 ^ (0 : ℤ) = r.toInt.natAbs := by rw [zpow_zero, mul_one]
    have hsmall : r.toInt.natAbs ≤ 2 ^ 15 := by
      have := BitVec.toInt_lt (x := r)
      have := BitVec.le_toInt (x := r)
      omega
    have hrange : InRange 15 (r.toInt.natAbs * 2 ^ (0 : ℤ)) := by
      rw [hmag]
      rcases Nat.eq_zero_or_pos r.toInt.natAbs with hzero | hpos
      · exact .inl (by rw [hzero, Nat.cast_zero])
      · have hone : (1 : ℚ) ≤ r.toInt.natAbs := by exact_mod_cast hpos
        exact .inr ⟨le_trans (by norm_num) hone, by exact_mod_cast hsmall⟩
    obtain ⟨m₁, e₁, heq₁, hrange₁, happrox₁⟩ := scales_twice hh₁ hh₂ hb₁ hb₂ (by decide) (r.toInt < 0) _ 0 hrange
    obtain ⟨m₂, e₂, heq₂, hfits, happrox₂⟩ := (scales_fltRound binary32_proper).approx (n := 41)
      (binary32_covers (by decide)) (r.toInt < 0) m₁ e₁ (by rwa [mul_one])
    rw [mul_one] at happrox₂
    rw [hmag] at happrox₁
    refine ⟨m₂, e₂, ?_, ?_⟩
    · rw [← fromBits32_bits32 hfits, ← heq₂, ← heq₁]
      rfl
    · have hvalue : (0 : ℝ) ≤ r.toInt.natAbs := Nat.cast_nonneg _
      have hlsb := hb.mul_right hvalue
      rw [mul_comm L] at hlsb
      have hrounded := (happrox₂.trans happrox₁ (by positivity)).cast
      rw [show ((r.toInt.natAbs * (b₁ * b₂) : ℚ) : ℝ) = (b₁ * b₂ : ℚ) * r.toInt.natAbs by push_cast; ring] at hrounded
      exact (hrounded.trans hlsb (by norm_num [binary32])).mono (by norm_num [binary32]) (mul_nonneg hvalue hL.le)

theorem Flt.lt_of_isRat {x y : Flt} {a b : ℚ} (hx : x.IsRat a) (hy : y.IsRat b) (h : a < b) : x.Lt y := by
  cases x with
  | nan | inf _ => exact hx.elim
  | fin n m e =>
    cases y with
    | nan | inf _ => exact hy.elim
    | fin n' m' e' =>
      obtain rfl : a = Flt.rat n m e := hx
      obtain rfl : b = Flt.rat n' m' e' := hy
      exact ⟨h.le, not_le.2 h⟩

/-- The number with the sign of `i` and a magnitude is as far from a multiple of `i` as the magnitude is. -/
theorem abs_signed_sub (i : ℤ) (Y : ℚ) (L : ℝ) :
    |((signed (i < 0) Y : ℚ) : ℝ) - i * L| = |(Y : ℝ) - i.natAbs * L| := by
  rcases lt_or_ge i 0 with h | h
  · rw [decide_eq_true h, signed_true, Nat.cast_natAbs, abs_of_neg h, ← abs_neg]
    push_cast
    ring_nf
  · rw [decide_eq_false (not_lt.2 h), signed_false, Nat.cast_natAbs, abs_of_nonneg h]

section
variable {toWire : Word → Int} {toHost : Half → Word} {L : ℝ}

/-- The host value of a sample is the sample times one LSB, up to a small relative error. -/
theorem Converts.host_value (h : Converts toWire toHost L) (r : Half) :
    ∃ y : ℚ, (fromBits32 (toHost r)).IsRat y ∧
      |(y : ℝ) - r.toInt * L| ≤ (1 / 2 ^ 24 + 50 / 2 ^ 56) * (r.toInt.natAbs * L) := by
  obtain ⟨m, e, heq, happrox⟩ := h.host r
  refine ⟨signed (r.toInt < 0) (m * 2 ^ e), ?_, ?_⟩
  · rw [heq]
    exact (Flt.rat_eq_signed _ m e).symm
  · rw [abs_signed_sub]
    exact happrox

/-- Samples are far enough apart for the host function to be strictly increasing. -/
theorem Converts.host_strictMono (h : Converts toWire toHost L) {r r' : Half} (hlt : r.toInt < r'.toInt) :
    (fromBits32 (toHost r)).Lt (fromBits32 (toHost r')) := by
  obtain ⟨y, hy, hnear⟩ := h.host_value r
  obtain ⟨y', hy', hnear'⟩ := h.host_value r'
  have hL := h.pos
  have hbound (q : Half) : (q.toInt.natAbs : ℝ) ≤ 32768 := by
    have := BitVec.toInt_lt (x := q)
    have := BitVec.le_toInt (x := q)
    exact_mod_cast (by omega : q.toInt.natAbs ≤ 32768)
  have herror (q : Half) : (1 / 2 ^ 24 + 50 / 2 ^ 56) * (q.toInt.natAbs * L) ≤ 1 / 4 * L := by
    calc (1 / 2 ^ 24 + 50 / 2 ^ 56) * (q.toInt.natAbs * L) ≤ (1 / 2 ^ 24 + 50 / 2 ^ 56) * (32768 * L) := by
          gcongr
          exact hbound q
      _ ≤ 1 / 4 * L := by
          rw [← mul_assoc]
          gcongr
          norm_num
  have hstep : (r.toInt : ℝ) * L + L ≤ r'.toInt * L := by
    have hone : (r.toInt : ℝ) + 1 ≤ r'.toInt := by exact_mod_cast hlt
    calc (r.toInt : ℝ) * L + L = (r.toInt + 1) * L := by ring
      _ ≤ r'.toInt * L := by gcongr
  refine Flt.lt_of_isRat hy hy' ?_
  have hhigh := (abs_le.1 hnear).2
  have hlow := (abs_le.1 hnear').1
  have := herror r
  have := herror r'
  exact_mod_cast (by linarith : (y : ℝ) < y')

/-- A round trip below saturation stays within one LSB and the relative error of both conversions. -/
theorem Converts.round_trip (h : Converts toWire toHost L) {x : Word} {v : ℚ} (hx : (fromBits32 x).IsRat v)
    (hv : |(v : ℝ)| < 32767 * L) :
    ∃ y : ℚ, (fromBits32 (toHost (BitVec.ofInt 16 (toWire x)))).IsRat y ∧
      |(y : ℝ) - v| < L + |(v : ℝ)| * (1 / 2 ^ 24 + 1 / 2 ^ 48) := by
  have hL := h.pos
  obtain ⟨neg, m, e, heq⟩ : ∃ neg m e, fromBits32 x = .fin neg m e := by
    cases hfloat : fromBits32 x with
    | nan | inf _ => exact (hfloat ▸ hx).elim
    | fin neg m e => exact ⟨neg, m, e, rfl⟩
  rw [heq] at hx
  obtain rfl : v = Flt.rat neg m e := hx
  rw [Flt.rat_eq_signed] at hv ⊢
  have hVpos : (0 : ℚ) ≤ m * 2 ^ e := by positivity
  have habs : |((signed neg (m * 2 ^ e) : ℚ) : ℝ)| = ((m * 2 ^ e : ℚ) : ℝ) := by
    have hcast : (0 : ℝ) ≤ ((m * 2 ^ e : ℚ) : ℝ) := by exact_mod_cast hVpos
    cases neg
    · rw [signed_false, abs_of_nonneg hcast]
    · rw [signed_true, Rat.cast_neg, abs_neg, abs_of_nonneg hcast]
  rw [habs] at hv ⊢
  have hsmall : (m * 2 ^ e : ℚ) ≤ 2 ^ 20 := by
    have : ((m * 2 ^ e : ℚ) : ℝ) ≤ 2 ^ 20 := by linarith [h.le_one]
    exact_mod_cast this
  obtain ⟨m', e', hwire, happrox⟩ := h.wire x neg m e heq hsmall
  generalize (m * 2 ^ e : ℚ) = V at *
  have hSpos : (0 : ℚ) ≤ m' * 2 ^ e' := by positivity
  have hfloor := truncMagnitude_eq_floor m' e'
  rw [satTrunc16_fin, hfloor] at hwire
  generalize (m' * 2 ^ e' : ℚ) = S at *
  set k := ⌊S⌋₊ with hk
  have hklow : (k : ℝ) ≤ S := by exact_mod_cast Nat.floor_le hSpos
  have hkhigh : (S : ℝ) < k + 1 := by exact_mod_cast Nat.lt_floor_add_one S
  have hscaled := happrox.le
  have hVpos' : (0 : ℝ) ≤ V := by exact_mod_cast hVpos
  have hkL : (k : ℝ) * L ≤ S * L := by gcongr
  have hkmax : k ≤ 32767 := by
    have hlt : (k : ℝ) * L < 32768 * L := by linarith
    have : (k : ℝ) < 32768 := lt_of_mul_lt_mul_right hlt hL.le
    have : k < 32768 := by exact_mod_cast this
    omega
  have hw : toWire x = if neg then -(k : ℤ) else k := by
    rw [hwire]
    cases neg <;> simp <;> omega
  have hint : (BitVec.ofInt 16 (toWire x)).toInt = toWire x := by
    rw [BitVec.toInt_ofInt, Int.bmod_eq_of_le] <;> rw [hw] <;> split <;> omega
  obtain ⟨y, hy, hnear⟩ := h.host_value (BitVec.ofInt 16 (toWire x))
  refine ⟨y, hy, ?_⟩
  rw [hint] at hnear
  have hnat : (toWire x).natAbs = k := by
    rw [hw]
    split <;> simp
  have hdist : |(toWire x : ℝ) * L - (signed neg V : ℚ)| = |(k : ℝ) * L - V| := by
    rw [hw]
    cases neg with
    | false => simp
    | true =>
      rw [if_pos rfl, signed_true, ← abs_neg]
      push_cast
      ring_nf
  rw [hnat] at hnear
  have htrunc : |(k : ℝ) * L - V| < L + 50 / 2 ^ 56 * V := by
    have hlow := (abs_le.1 happrox).1
    have hhigh := (abs_le.1 happrox).2
    have hnext : (S : ℝ) * L < (k + 1) * L := by gcongr
    rw [abs_lt]
    constructor <;> linarith
  have htotal := abs_sub_le (y : ℝ) (toWire x * L) (signed neg V : ℚ)
  rw [hdist] at htotal
  linarith

end

/-! The LSBs (rules R241 and R255). -/

theorem accel_converts : Converts accelToWire accelToHost ((9.80665 / 2048 : ℚ) : ℝ) := by
  refine converts_of_scales scales_mul_accelLsb64 scales_div_g64 scales_mul_g64 scales_div_accelLsb64
    (.inr (by norm_num)) (.inr (by norm_num [g64Value])) (.inr (by norm_num [g64Value])) (.inr (by norm_num))
    (by norm_num) (by norm_num) ?_ ?_
  · rw [Approx, abs_le]
    norm_num [g64Value]
  · rw [Approx, abs_le]
    norm_num [g64Value]

theorem gyro_converts : Converts gyroToWire gyroToHost (Real.pi / (180 * 16.4)) := by
  have hlow := Real.pi_gt_d20
  have hhigh := Real.pi_lt_d20
  refine converts_of_scales scales_mul_r2d64 scales_mul_k64 scales_div_k64 scales_mul_d2r64
    (.inr (by norm_num [r2d64Value])) (.inr (by norm_num [k64Value])) (.inr (by norm_num [k64Value]))
    (.inr (by norm_num [d2r64Value])) (by positivity) (by linarith) ?_ ?_
  · rw [Approx, abs_le]
    norm_num [r2d64Value, k64Value]
    constructor <;> linarith
  · rw [Approx, abs_le]
    norm_num [d2r64Value, k64Value]
    constructor <;> linarith

/-- Settles O54: special values by computation, signs by oddness, and both conversions as multiplications by one LSB. -/
theorem conversionOfSpecialValuesAndSigns : Obligations.ConversionOfSpecialValuesAndSigns := by
  have hzero : fromBits32 0x00000000 = .fin false 0 (-149) := rfl
  have hnegzero : fromBits32 0x80000000 = .fin true 0 (-149) := rfl
  have hinf : fromBits32 0x7F800000 = .inf false := rfl
  have hneginf : fromBits32 0xFF800000 = .inf true := rfl
  refine ⟨fun x hexp hfrac => toWire_of_nan (fromBits32_nan hexp hfrac), ?zeros, ?infinities, by decide, by decide,
    fun r h0 hmin => toHost_neg h0 hmin,
    fun r r' hlt => ⟨accel_converts.host_strictMono hlt, gyro_converts.host_strictMono hlt⟩,
    fun x v hv => ⟨fun hlt => ?accel, fun hlt => gyro_converts.round_trip hv hlt⟩⟩
  case zeros =>
    obtain ⟨haccel, hgyro⟩ := toWire_of_zero hzero
    obtain ⟨haccel', hgyro'⟩ := toWire_of_zero hnegzero
    exact ⟨haccel, hgyro, haccel', hgyro'⟩
  case infinities =>
    obtain ⟨haccel, hgyro⟩ := toWire_of_inf hinf
    obtain ⟨haccel', hgyro'⟩ := toWire_of_inf hneginf
    exact ⟨haccel, hgyro, haccel', hgyro'⟩
  case accel =>
    obtain ⟨y, hy, hnear⟩ := accel_converts.round_trip hv (by exact_mod_cast hlt)
    refine ⟨y, hy, (Rat.cast_lt (K := ℝ)).1 ?_⟩
    push_cast at hnear ⊢
    exact hnear

end Sys2Proof.Machine
end
